-- ==== Sys2Proof/Word.lean ====
section
/-! DEFINITION. Word: the 32-bit command word, its seven fields, the register numbers and the command triple
(spec/30_encoding.md R50, R51). `W`-bit operands are natural numbers, as the spec's notation has them
(spec/00_scope.md section 6; log entry 2). -/

namespace Sys2Proof

/-- R50: the command word, 32 bits, one format. -/
abbrev CmdWord := BitVec 32

/-- R20, R51: the number of a field-element register `F0 .. F15`; every 4-bit value is a register. -/
abbrev FReg := Fin 16

/-- R21, R51: the number of a point register `PT0 .. PT15`; every 4-bit value is a register. -/
abbrev PReg := Fin 16

/-- R51: the seven fields of a command word, from the most significant down. -/
structure Fields where
  /-- Bits 31:24. -/
  opcode : BitVec 8
  /-- Bits 23:20, the destination register. -/
  rd : BitVec 4
  /-- Bits 19:16, the first source register. -/
  rs1 : BitVec 4
  /-- Bits 15:12, the second source register. -/
  rs2 : BitVec 4
  /-- Bits 11:8, the third source register (PNEW only: `Fx`). -/
  rs3 : BitVec 4
  /-- Bits 7:4, the fourth source register (PNEW only: `Fy`). -/
  rs4 : BitVec 4
  /-- Bits 3:0, coordinate presence (PNEW only): bit 1 is `xp`, bit 0 is `yp`. -/
  cp : BitVec 4
deriving DecidableEq, Repr

/-- R50: a command, the triple the host presents. `din0` and `din1` are the `W`-bit data inputs, unsigned. -/
structure Command where
  word : CmdWord
  din0 : Nat
  din1 : Nat
deriving DecidableEq, Repr

end Sys2Proof
end

