-- ==== Sys2Proof/Syntax.lean ====
section
/-! DEFINITION. Syntax: the instructions, one constructor for each of the eighteen rows of spec/opcode_table.json
(spec/30_encoding.md R54, R55). The data inputs are no operands of an instruction: decode reads nothing but the
word (R58), and a meaning takes `din0` and `din1` from the command in flight. -/

namespace Sys2Proof

/-- R55: the eighteen rows, each with the registers its fields name, destination first. -/
inductive Instr where
  /-- R130 `STAT`: read the status register. -/
  | stat
  /-- R74 `FNEW Fd, #value, #prime`: construct a field element. -/
  | fnew (fd : FReg)
  /-- R75 `FADD Fd, Fa, Fb`: field addition. -/
  | fadd (fd fa fb : FReg)
  /-- R76 `FSUB Fd, Fa, Fb`: field subtraction. -/
  | fsub (fd fa fb : FReg)
  /-- R77 `FMUL Fd, Fa, Fb`: field multiplication. -/
  | fmul (fd fa fb : FReg)
  /-- R93 `FPOW Fd, Fa, #exponent`: field exponentiation. -/
  | fpow (fd fa : FReg)
  /-- R94 `FINV Fd, Fb`: inverse by Fermat exponentiation. -/
  | finv (fd fb : FReg)
  /-- R95 `FDIV Fd, Fa, Fb`: field division. -/
  | fdiv (fd fa fb : FReg)
  /-- R78 `FEQ Fa, Fb`: field-element equality. -/
  | feq (fa fb : FReg)
  /-- R79 `FGET Fa`: read a field-element register out. -/
  | fget (fa : FReg)
  /-- R103 `PNEW Pd, Fa, Fb, -, -`: the point at infinity of curve `(a, b)`. -/
  | pnewN (pd : PReg) (fa fb : FReg)
  /-- R103 `PNEW Pd, Fa, Fb, -, Fy`: only `y` supplied. -/
  | pnewY (pd : PReg) (fa fb fy : FReg)
  /-- R103 `PNEW Pd, Fa, Fb, Fx, -`: only `x` supplied. -/
  | pnewX (pd : PReg) (fa fb fx : FReg)
  /-- R103 `PNEW Pd, Fa, Fb, Fx, Fy`: a concrete point. -/
  | pnewXY (pd : PReg) (fa fb fx fy : FReg)
  /-- R104 `PADD Pd, Pa, Pb`: point addition. -/
  | padd (pd pa pb : PReg)
  /-- R121 `PMUL Pd, Pa, #k`: scalar multiplication. -/
  | pmul (pd pa : PReg)
  /-- R105 `PEQ Pa, Pb`: point equality. -/
  | peq (pa pb : PReg)
  /-- R106 `PGET Pa`: read a point register out. -/
  | pget (pa : PReg)
deriving DecidableEq, Repr

end Sys2Proof
end

