-- ==== Sys2Proof/Decode.lean ====
section
/-! DEFINITION. Decode: the decoder, total on every 32-bit word (spec/30_encoding.md R58), by the match and mask of R55;
after it the encoder, written from the field columns of the same table. -/

namespace Sys2Proof

/-- R51: the seven fields of a word. -/
def fieldsOf (w : CmdWord) : Fields where
  opcode := w.extractLsb' 24 8
  rd := w.extractLsb' 20 4
  rs1 := w.extractLsb' 16 4
  rs2 := w.extractLsb' 12 4
  rs3 := w.extractLsb' 8 4
  rs4 := w.extractLsb' 4 4
  cp := w.extractLsb' 0 4

/-- R51: the word with the given seven fields. -/
def wordOf (f : Fields) : CmdWord :=
  f.opcode ++ f.rd ++ f.rs1 ++ f.rs2 ++ f.rs3 ++ f.rs4 ++ f.cp

/-- The register a 4-bit field names. -/
def regOf (field : BitVec 4) : Fin 16 := field.toFin

/-- The 4-bit field that names a register. -/
def bitsOf (r : Fin 16) : BitVec 4 := BitVec.ofFin r

/-- One row of R55: its mnemonic, its match and its mask, and the instruction its fields give. -/
structure Row where
  mnemonic : String
  pattern : CmdWord
  mask : CmdWord
  build : Fields → Instr

/-- R55: "A word `w` is the command of a row exactly when `(w AND mask) = match`". -/
def Row.matches (r : Row) (w : CmdWord) : Bool := w &&& r.mask == r.pattern

/-- R55, the system and field commands. -/
def fieldRows : List Row :=
  [ ⟨"STAT", 0x01000000, 0xFFFFFFFF, fun _ => .stat⟩,
    ⟨"FNEW", 0x10000000, 0xFF0FFFFF, fun f => .fnew (regOf f.rd)⟩,
    ⟨"FADD", 0x11000000, 0xFF000FFF, fun f => .fadd (regOf f.rd) (regOf f.rs1) (regOf f.rs2)⟩,
    ⟨"FSUB", 0x12000000, 0xFF000FFF, fun f => .fsub (regOf f.rd) (regOf f.rs1) (regOf f.rs2)⟩,
    ⟨"FMUL", 0x13000000, 0xFF000FFF, fun f => .fmul (regOf f.rd) (regOf f.rs1) (regOf f.rs2)⟩,
    ⟨"FPOW", 0x14000000, 0xFF00FFFF, fun f => .fpow (regOf f.rd) (regOf f.rs1)⟩,
    ⟨"FINV", 0x15000000, 0xFF00FFFF, fun f => .finv (regOf f.rd) (regOf f.rs1)⟩,
    ⟨"FDIV", 0x16000000, 0xFF000FFF, fun f => .fdiv (regOf f.rd) (regOf f.rs1) (regOf f.rs2)⟩,
    ⟨"FEQ", 0x17000000, 0xFFF00FFF, fun f => .feq (regOf f.rs1) (regOf f.rs2)⟩,
    ⟨"FGET", 0x18000000, 0xFFF0FFFF, fun f => .fget (regOf f.rs1)⟩ ]

/-- R55, the point commands. -/
def pointRows : List Row :=
  [ ⟨"PNEW.N", 0x20000000, 0xFF000FFF, fun f => .pnewN (regOf f.rd) (regOf f.rs1) (regOf f.rs2)⟩,
    ⟨"PNEW.Y", 0x20000001, 0xFF000F0F, fun f => .pnewY (regOf f.rd) (regOf f.rs1) (regOf f.rs2) (regOf f.rs4)⟩,
    ⟨"PNEW.X", 0x20000002, 0xFF0000FF, fun f => .pnewX (regOf f.rd) (regOf f.rs1) (regOf f.rs2) (regOf f.rs3)⟩,
    ⟨"PNEW.XY", 0x20000003, 0xFF00000F,
      fun f => .pnewXY (regOf f.rd) (regOf f.rs1) (regOf f.rs2) (regOf f.rs3) (regOf f.rs4)⟩,
    ⟨"PADD", 0x21000000, 0xFF000FFF, fun f => .padd (regOf f.rd) (regOf f.rs1) (regOf f.rs2)⟩,
    ⟨"PMUL", 0x22000000, 0xFF00FFFF, fun f => .pmul (regOf f.rd) (regOf f.rs1)⟩,
    ⟨"PEQ", 0x23000000, 0xFFF00FFF, fun f => .peq (regOf f.rs1) (regOf f.rs2)⟩,
    ⟨"PGET", 0x24000000, 0xFFF0FFFF, fun f => .pget (regOf f.rs1)⟩ ]

/-- R55: the eighteen rows. -/
def rows : List Row := fieldRows ++ pointRows

/-- R58: the instruction of the word, or none: an illegal command (R57). It reads nothing but the word. -/
def decode (w : CmdWord) : Option Instr :=
  (rows.find? fun r => r.matches w).map fun r => r.build (fieldsOf w)

/-- The instruction the decoder reads from the command whose bits are `w`. The table's rows are one 32-bit word, bit 0 its
least significant (R51, and R41: a word has no byte order); no command is longer (R50; log entry 8). -/
def decodeTableWord (nbits w : Nat) : Option Instr :=
  if nbits ≤ 32 then decode (BitVec.ofNat 32 (w % 2 ^ nbits)) else none

/-- R55, the field columns: the fields of an instruction's word; a field it does not use is zero (R56). -/
def Instr.fields : Instr → Fields
  | .stat => ⟨0x01, 0, 0, 0, 0, 0, 0⟩
  | .fnew fd => ⟨0x10, bitsOf fd, 0, 0, 0, 0, 0⟩
  | .fadd fd fa fb => ⟨0x11, bitsOf fd, bitsOf fa, bitsOf fb, 0, 0, 0⟩
  | .fsub fd fa fb => ⟨0x12, bitsOf fd, bitsOf fa, bitsOf fb, 0, 0, 0⟩
  | .fmul fd fa fb => ⟨0x13, bitsOf fd, bitsOf fa, bitsOf fb, 0, 0, 0⟩
  | .fpow fd fa => ⟨0x14, bitsOf fd, bitsOf fa, 0, 0, 0, 0⟩
  | .finv fd fb => ⟨0x15, bitsOf fd, bitsOf fb, 0, 0, 0, 0⟩
  | .fdiv fd fa fb => ⟨0x16, bitsOf fd, bitsOf fa, bitsOf fb, 0, 0, 0⟩
  | .feq fa fb => ⟨0x17, 0, bitsOf fa, bitsOf fb, 0, 0, 0⟩
  | .fget fa => ⟨0x18, 0, bitsOf fa, 0, 0, 0, 0⟩
  | .pnewN pd fa fb => ⟨0x20, bitsOf pd, bitsOf fa, bitsOf fb, 0, 0, 0b0000⟩
  | .pnewY pd fa fb fy => ⟨0x20, bitsOf pd, bitsOf fa, bitsOf fb, 0, bitsOf fy, 0b0001⟩
  | .pnewX pd fa fb fx => ⟨0x20, bitsOf pd, bitsOf fa, bitsOf fb, bitsOf fx, 0, 0b0010⟩
  | .pnewXY pd fa fb fx fy => ⟨0x20, bitsOf pd, bitsOf fa, bitsOf fb, bitsOf fx, bitsOf fy, 0b0011⟩
  | .padd pd pa pb => ⟨0x21, bitsOf pd, bitsOf pa, bitsOf pb, 0, 0, 0⟩
  | .pmul pd pa => ⟨0x22, bitsOf pd, bitsOf pa, 0, 0, 0, 0⟩
  | .peq pa pb => ⟨0x23, 0, bitsOf pa, bitsOf pb, 0, 0, 0⟩
  | .pget pa => ⟨0x24, 0, bitsOf pa, 0, 0, 0, 0⟩

/-- The word of an instruction (R51, R55). -/
def encode (i : Instr) : CmdWord := wordOf i.fields

end Sys2Proof
end

