-- ==== Sys2Proof/Config.lean ====
section
/-! DEFINITION. Config: what an implementation fixes. The spec leaves ONE parameter open (spec/92_eei_decisions.md,
"Named open parameters"): the operand width `W` (spec/00_scope.md R5, log entry 1). Everything else is fixed by R6. -/

namespace Sys2Proof.Config

/-- The open part of the operand width: any natural number. It has no body, so no proof can use a value of it. -/
opaque widthMinusOne : Nat

/-- R5: `W`, the operand width in bits, an integer `W >= 1` and otherwise open. -/
def W : Nat := widthMinusOne + 1

/-- R5: `W >= 1`. -/
theorem one_le_W : 1 ≤ W := Nat.le_add_left 1 widthMinusOne

/-- At least two values fit a `W`-bit word. -/
theorem two_le_two_pow_W : 2 ≤ 2 ^ W := by
  calc 2 = 2 ^ 1 := rfl
    _ ≤ 2 ^ W := Nat.pow_le_pow_right (by decide) one_le_W

/-- A `W`-bit word can hold the value 0. -/
theorem two_pow_W_pos : 0 < 2 ^ W := Nat.lt_of_lt_of_le (by decide) two_le_two_pow_W

end Sys2Proof.Config
end

