-- ==== Sys2Proof/Machine/State.lean ====
section
/-! DEFINITION. State: the values of the block, its architectural state (spec/10_state.md R20 to R30), the command and
response port with the transaction in progress (spec/30_encoding.md R63, spec/70_reset_and_hazards.md R163), what the
host drives and has collected, and the state after reset. All of it is plain data. -/

namespace Sys2Proof.Machine

/-- `FE` of spec/00_scope.md section 6, a field element (R20): a value paired with the modulus of its field. -/
structure FE where
  value : Nat
  prime : Nat
deriving DecidableEq, Repr

/-- `Coord`, the coordinate state of a point (R21): infinity has no coordinates. -/
inductive Coord where
  | infinity
  | onCurve (x y : FE)
deriving DecidableEq, Repr

/-- `Point` (R21): the curve constants of `y² = x³ + a·x + b` and the coordinate state. -/
structure Point where
  a : FE
  b : FE
  c : Coord
deriving DecidableEq, Repr

/-- `Slot T`, the content of one register (R20, R21). An empty register holds no value at all (R23). -/
inductive Slot (α : Type) where
  | empty
  | full (v : α)
deriving DecidableEq, Repr

/-- R140: the nine statuses. -/
inductive Status where
  /-- 0: the command succeeded. -/
  | ok
  /-- 1: value not in `[0, prime)` at construction. -/
  | outOfRange
  /-- 2: operands of different fields, or points of different curves. -/
  | fieldMismatch
  /-- 3: the divisor's value is 0. -/
  | divisionByZero
  /-- 4: exactly one of the two coordinates supplied. -/
  | invalidInfinity
  /-- 5: the coordinates fail the curve equation. -/
  | notOnCurve
  /-- 6: point addition met a case the group law does not cover, or left the curve. -/
  | internal
  /-- 7: the word matches no defined command. -/
  | illegalCommand
  /-- 8: a source register has not been written since reset. -/
  | emptyRegister
deriving DecidableEq, Repr

/-- R53: the eight data words of a response. -/
abbrev Dout := Vector Nat 8

/-- R53: a response, one for each command. -/
structure Response where
  status : Status
  flag : Bool
  dout : Dout
deriving DecidableEq, Repr

/-- R63, R163: where the block stands at its ports. It holds at most one command. -/
inductive Port where
  /-- No command held: `cmd_ready = 1`. -/
  | idle
  /-- A command has been taken and has not been answered: `cmd_ready = 0`, `rsp_valid = 0`. -/
  | busy (cmd : Command)
  /-- The response is presented, and held unchanged until taken: `cmd_ready = 0`, `rsp_valid = 1`. -/
  | done (rsp : Response)
deriving DecidableEq, Repr

/-- R63: what the host drives at one rising clock edge (the block's inputs but for the clock). -/
structure HostEdge where
  rst : Bool
  cmdValid : Bool
  cmdWord : CmdWord
  cmdDin0 : Nat
  cmdDin1 : Nat
  rspReady : Bool
deriving DecidableEq, Repr

/-- An edge at which the host drives nothing. -/
def HostEdge.quiet : HostEdge := ⟨false, false, 0, 0, 0, false⟩

/-- R24: the architectural state, exactly the two register files and `STATUS`. -/
structure Arch where
  /-- R20: `F0 .. F15`. -/
  f : Vector (Slot FE) 16
  /-- R21: `PT0 .. PT15`. -/
  pt : Vector (Slot Point) 16
  /-- R22: `STATUS`, the status of the last command other than STAT. -/
  status : Status
deriving DecidableEq, Repr

/-- R30: both files empty, `STATUS = 0`. -/
def Arch.reset : Arch := ⟨Vector.replicate 16 .empty, Vector.replicate 16 .empty, .ok⟩

/-- The machine: R24's state, the port, and the two ends of the host's stream (log entries 3, 4 and 5). -/
structure State extends Arch where
  /-- R63, R163: the transaction in progress. -/
  port : Port
  /-- What the host drives at the coming edges, the next one first; past the end it drives nothing. -/
  inputs : List HostEdge
  /-- The responses the host has taken, the first one first; the block never reads it. -/
  collected : List Response
deriving DecidableEq, Repr

/-- R30, R160: the block after reset, idle; the host has driven nothing yet and collected nothing. -/
def State.reset : State := { Arch.reset with port := .idle, inputs := [], collected := [] }

/-- Nothing stops this block: every failure is a status in a response (R143, R146), and every command ends (R165). No
fault has a constructor, so no step can answer one (log entry 9). -/
inductive Fault where
deriving DecidableEq, Repr

/-- The reasons a step can be refused. -/
inductive Refusal where
  /-- Raised by an arm of `exec` whose instruction has no meaning yet; no arm does, since all eighteen rows are modelled.
  Safe: the model stops where the hardware goes on. -/
  | notModelled (mnemonic : String)
deriving DecidableEq, Repr

/-- The outcome of a step of this block. -/
abbrev Outcome := Host.Outcome State Fault Refusal

end Sys2Proof.Machine
end

