-- ==== Sys2Proof/Machine/Ops.lean ====
section
/-! DEFINITION. Ops: the named operations on the state: register write, response, `raise` (the block's taking of an
exception, spec/60_exceptions.md R143 to R145), the normal end, and `commit`, through which every command but STAT ends.
There is no return from an exception: nothing is saved and nothing is to be restored (R146). The block has no memory,
so there are no memory operations (spec/20_memory.md R40). -/

namespace Sys2Proof.Machine

/-- R140: the code of a status, 4 bits. -/
def Status.code : Status → BitVec 4
  | .ok => 0
  | .outOfRange => 1
  | .fieldMismatch => 2
  | .divisionByZero => 3
  | .invalidInfinity => 4
  | .notOnCurve => 5
  | .internal => 6
  | .illegalCommand => 7
  | .emptyRegister => 8

/-- R53: all eight data words zero. -/
def Dout.zero : Dout := Vector.replicate 8 0

/-- R53: a value put on a `W`-bit data word; with `W < 4` the STAT word holds `STATUS mod 2^W`. -/
def zextW (v : Nat) : Nat := v % 2 ^ Config.W

/-- The one register a command writes, if any: no command writes more than one. -/
inductive Write where
  | none
  | toF (rd : FReg) (v : FE)
  | toPT (rd : PReg) (v : Point)
deriving DecidableEq, Repr

/-- What a command that succeeds does: a register write and the response fields its rule names; the others are zero. -/
structure Effect where
  write : Write := .none
  flag : Bool := false
  dout : Dout := Dout.zero
deriving DecidableEq, Repr

/-- A register write: the register becomes `Full(v)`, whether it was empty or full (R23). -/
def State.write (s : State) : Write → State
  | .none => s
  | .toF rd v => { s with f := s.f.set rd (.full v) }
  | .toPT rd v => { s with pt := s.pt.set rd (.full v) }

/-- R53, R163: the block presents a response. -/
def State.respond (s : State) (r : Response) : State := { s with port := .done r }

/-- R144: `raise S`: `STATUS <- S`, the response is `(S, 0, zeros)`, and both register files stay as they are. -/
def State.raise (s : State) (st : Status) : State :=
  State.respond { s with status := st } ⟨st, false, Dout.zero⟩

/-- R144: a command ends normally: `STATUS <- OK` and the response has status 0. -/
def State.finish (s : State) (flag : Bool) (dout : Dout) : State :=
  State.respond { s with status := .ok } ⟨.ok, flag, dout⟩

/-- R143, R144: the end of every command but STAT: all of its effect, or a status and no register written. -/
def State.commit (s : State) : Except Status Effect → State
  | .error st => s.raise st
  | .ok e => (s.write e.write).finish e.flag e.dout

end Sys2Proof.Machine
end

