-- ==== Sys2Proof/Machine/Units.lean ====
section
/-! DEFINITION. Units: the six datapath units U1 to U6 (spec/00_scope.md R2) and the two equalities. All arithmetic is over
the natural numbers and reduced at the end; nothing wraps at `2^W` (R7). Data flows one way, from U6 down to U1. -/

namespace Sys2Proof.Machine

/-- R70, unit U1, modular_adder. -/
def modadd (a b p : Nat) : Nat := (a + b) % p

/-- R71, unit U2, modular_subtractor: no intermediate is negative. -/
def modsub (a b p : Nat) : Nat := if b ≤ a then a - b else p - (b - a)

/-- R72, unit U3, modular_multiplier: the product is exact, then reduced. -/
def modmul (a b p : Nat) : Nat := (a * b) % p

/-- R90, unit U4: exponentiation, with `a ^ 0 = 1` also for `a = 0`, reduced as well (so 0 when `p = 1`). -/
def modpow (a e p : Nat) : Nat := (a ^ e) % p

/-- R91, unit U4: inversion by Fermat exponentiation, evaluated literally for every modulus. Every caller has tested
`b` for 0 first, and `b < p` then gives `p >= 2` (log entry 10). -/
def modinv (b p : Nat) : Nat := modpow b (p - 2) p

/-- R92, unit U4: division. Every caller has tested the divisor for 0 first. -/
def moddiv (a b p : Nat) : Nat := modmul a (modinv b p) p

/-- R73: field-element equality, of value and of prime. -/
def FE.eqv (e1 e2 : FE) : Bool := e1.value == e2.value && e1.prime == e2.prime

/-- R101, the coordinate states: both infinity, or equal `x` and equal `y`. -/
def Coord.eqv : Coord → Coord → Bool
  | .infinity, .infinity => true
  | .onCurve x1 y1, .onCurve x2 y2 => x1.eqv x2 && y1.eqv y2
  | .infinity, .onCurve _ _ => false
  | .onCurve _ _, .infinity => false

/-- R102 step 0: the points carry the same curve constants. -/
def sameCurve (p1 p2 : Point) : Bool := p1.a.eqv p2.a && p1.b.eqv p2.b

/-- R101: point equality: same curve constants, same coordinate state. -/
def Point.eqv (p1 p2 : Point) : Bool := sameCurve p1 p2 && p1.c.eqv p2.c

/-- R100: curve membership, `y² = x³ + a·x + b` with every operation reduced modulo `p`. -/
def oncurve (a b x y p : Nat) : Bool :=
  modmul y y p == modadd (modadd (modmul (modmul x x p) x p) (modmul a x p) p) b p

/-- R102 step 3: the slope at a point that is doubled; the factors 3 and 2 are repeated addition. -/
def doublingSlope (a x1 y1 p : Nat) : Nat :=
  let xx := modmul x1 x1 p
  let num := modadd (modadd (modadd xx xx p) xx p) a p
  let den := modadd y1 y1 p
  moddiv num den p

/-- R102 step 4: the slope of the chord through two points of different `x`. -/
def chordSlope (x1 y1 x2 y2 p : Nat) : Nat := moddiv (modsub y2 y1 p) (modsub x2 x1 p) p

/-- R102 step 5: the third point on the line of slope `s`, tested against the curve equation. -/
def thirdPoint (p1 : Point) (x1 y1 x2 s p : Nat) : Except Status Point :=
  let x3 := modsub (modsub (modmul s s p) x1 p) x2 p
  let y3 := modsub (modmul s (modsub x1 x3 p) p) y1 p
  if oncurve p1.a.value p1.b.value x3 y3 p then
    .ok ⟨p1.a, p1.b, .onCurve ⟨x3, p⟩ ⟨y3, p⟩⟩
  else .error .internal

/-- R102 steps 2 to 5: two concrete points of one curve; the first step that applies decides. -/
def addConcrete (p1 : Point) (x1 y1 x2 y2 p : Nat) : Except Status Point :=
  if x1 = x2 ∧ modadd y1 y2 p = 0 then .ok ⟨p1.a, p1.b, .infinity⟩
  else if x1 = x2 ∧ y1 = y2 then thirdPoint p1 x1 y1 x2 (doublingSlope p1.a.value x1 y1 p) p
  else if x1 ≠ x2 then thirdPoint p1 x1 y1 x2 (chordSlope x1 y1 x2 y2 p) p
  else .error .internal

/-- R102, unit U5, elliptic_curve_point_adder: a point, or `fieldMismatch`, or `internal`. The one prime of two concrete
points of one curve is read at `p1.a` (log entry 11). -/
def ecadd (p1 p2 : Point) : Except Status Point :=
  if sameCurve p1 p2 then
    match p1.c, p2.c with
    | .infinity, _ => .ok p2
    | .onCurve _ _, .infinity => .ok p1
    | .onCurve x1 y1, .onCurve x2 y2 => addConcrete p1 x1.value y1.value x2.value y2.value p1.a.prime
  else .error .fieldMismatch

/-- R120, unit U6, scalar_multiplier: `k` additions of `P`, on the right, from the infinity of its curve. -/
def ecmul (P : Point) : Nat → Except Status Point
  | 0 => .ok ⟨P.a, P.b, .infinity⟩
  | k + 1 => (ecmul P k).bind fun R => ecadd R P

end Sys2Proof.Machine
end

