-- ==== Sys2Proof/Machine/Flags.lean ====
section
/-! DEFINITION. Flags: the block keeps no flags (spec/10_state.md R28); the one-bit `flag` of a response and its data words,
for the commands that name them (spec/30_encoding.md R53). -/

namespace Sys2Proof.Machine

/-- R78: the flag of FEQ. -/
def feqFlag (a b : FE) : Bool := a.eqv b

/-- R105: the flag of PEQ. -/
def peqFlag (p1 p2 : Point) : Bool := p1.eqv p2

/-- R106: the flag of PGET, 1 for the point at infinity. -/
def pgetFlag (p : Point) : Bool :=
  match p.c with
  | .infinity => true
  | .onCurve _ _ => false

/-- R79: the data words of FGET. -/
def fgetDout (a : FE) : Dout := #v[a.value, a.prime, 0, 0, 0, 0, 0, 0]

/-- R106: the data words of PGET; the zeros shown for infinity are no coordinates. -/
def pgetDout (p : Point) : Dout :=
  match p.c with
  | .infinity => #v[p.a.value, p.a.prime, p.b.value, p.b.prime, 0, 0, 0, 0]
  | .onCurve x y => #v[p.a.value, p.a.prime, p.b.value, p.b.prime, x.value, x.prime, y.value, y.prime]

/-- R130: the data words of STAT. -/
def statDout (st : Status) : Dout := #v[zextW st.code.toNat, 0, 0, 0, 0, 0, 0, 0]

end Sys2Proof.Machine
end

