-- ==== Sys2Proof/Machine/Operands.lean ====
section
/-! DEFINITION. Operands: every operand form of the block: a field-element register, a point register, a data input; and
the form of a command's own check (spec/10_state.md R23, spec/30_encoding.md R52, R59, spec/60_exceptions.md R142). A
command's rule is a computation that ends in a status or in a value; its reads come first, in the order of R59. -/

namespace Sys2Proof.Machine

/-- What a register gives as a source: its value, or `EmptyRegister` (R23). -/
def Slot.read {α : Type} : Slot α → Except Status α
  | .empty => .error .emptyRegister
  | .full v => .ok v

/-- R20, R23: read of the field-element register `r`. -/
def State.readF (s : State) (r : FReg) : Except Status FE := s.f[r].read

/-- R21, R23: read of the point register `r`. -/
def State.readPT (s : State) (r : PReg) : Except Status Point := s.pt[r].read

/-- The data inputs of a port: those of the command in flight, and 0 where there is none, in which case no step runs an
instruction (log entry 12). -/
def Port.din : Port → Nat × Nat
  | .busy c => (c.din0, c.din1)
  | .idle => (0, 0)
  | .done _ => (0, 0)

/-- R52: the first data input of the command in flight. -/
def State.din0 (s : State) : Nat := s.port.din.1

/-- R52: the second data input of the command in flight. -/
def State.din1 (s : State) : Nat := s.port.din.2

/-- A command's own check: go on if it holds, else end with the status (R142). -/
def require (holds : Bool) (otherwise : Status) : Except Status Unit :=
  if holds then .ok () else .error otherwise

end Sys2Proof.Machine
end

