-- ==== Sys2Proof/Machine/Field.lean ====
section
/-! DEFINITION. Field: the meanings of FNEW, FADD, FSUB, FMUL, FEQ, FGET (spec/40_field_arithmetic.md). -/

namespace Sys2Proof.Machine

/-- The shape of FADD, FSUB and FMUL (R75 to R77): both sources, the check of their primes, and one unit. -/
def binaryField (unit : Nat → Nat → Nat → Nat) (fd fa fb : FReg) (s : State) : Except Status Effect := do
  let a ← s.readF fa
  let b ← s.readF fb
  require (a.prime == b.prime) .fieldMismatch
  return { write := .toF fd ⟨unit a.value b.value a.prime, a.prime⟩ }

/-- R74 `FNEW Fd, #value, #prime`. -/
def execFnew (fd : FReg) (s : State) : Outcome :=
  .next (s.commit (do
    require (s.din0 < s.din1) .outOfRange
    return { write := .toF fd ⟨s.din0, s.din1⟩ }))

/-- R75 `FADD Fd, Fa, Fb`. -/
def execFadd (fd fa fb : FReg) (s : State) : Outcome :=
  .next (s.commit (binaryField modadd fd fa fb s))

/-- R76 `FSUB Fd, Fa, Fb`: `Fa` minus `Fb`. -/
def execFsub (fd fa fb : FReg) (s : State) : Outcome :=
  .next (s.commit (binaryField modsub fd fa fb s))

/-- R77 `FMUL Fd, Fa, Fb`. -/
def execFmul (fd fa fb : FReg) (s : State) : Outcome :=
  .next (s.commit (binaryField modmul fd fa fb s))

/-- R78 `FEQ Fa, Fb`: elements of different primes compare unequal, which is no error. -/
def execFeq (fa fb : FReg) (s : State) : Outcome :=
  .next (s.commit (do
    let a ← s.readF fa
    let b ← s.readF fb
    return { flag := feqFlag a b }))

/-- R79 `FGET Fa`. -/
def execFget (fa : FReg) (s : State) : Outcome :=
  .next (s.commit (do
    let a ← s.readF fa
    return { dout := fgetDout a }))

end Sys2Proof.Machine
end

