-- ==== Sys2Proof/Machine/Inversion.lean ====
section
/-! DEFINITION. Inversion: the meanings of FPOW, FINV, FDIV (spec/41_field_inversion.md). -/

namespace Sys2Proof.Machine

/-- R93 `FPOW Fd, Fa, #exponent`. -/
def execFpow (fd fa : FReg) (s : State) : Outcome :=
  .next (s.commit (do
    let a ← s.readF fa
    return { write := .toF fd ⟨modpow a.value s.din0 a.prime, a.prime⟩ }))

/-- R94 `FINV Fd, Fb`. -/
def execFinv (fd fb : FReg) (s : State) : Outcome :=
  .next (s.commit (do
    let b ← s.readF fb
    require (b.value != 0) .divisionByZero
    return { write := .toF fd ⟨modinv b.value b.prime, b.prime⟩ }))

/-- R95 `FDIV Fd, Fa, Fb`: `Fa` divided by `Fb`; the primes are compared before the divisor is looked at. -/
def execFdiv (fd fa fb : FReg) (s : State) : Outcome :=
  .next (s.commit (do
    let a ← s.readF fa
    let b ← s.readF fb
    require (a.prime == b.prime) .fieldMismatch
    require (b.value != 0) .divisionByZero
    return { write := .toF fd ⟨moddiv a.value b.value a.prime, a.prime⟩ }))

end Sys2Proof.Machine
end

