-- ==== Sys2Proof/Machine/PointOps.lean ====
section
/-! DEFINITION. PointOps: the meanings of the four forms of PNEW, of PADD, PEQ, PGET (spec/42_point_arithmetic.md). -/

namespace Sys2Proof.Machine

/-- R103, form XY: all four elements share one prime. -/
def onePrime (a b x y : FE) : Bool := a.prime == b.prime && b.prime == x.prime && x.prime == y.prime

/-- R103, forms X and Y: the named registers are read, then exactly one coordinate is `InvalidInfinity`. -/
def loneCoordinate (fa fb fc : FReg) (s : State) : Except Status Effect := do
  let _ ← s.readF fa
  let _ ← s.readF fb
  let _ ← s.readF fc
  .error .invalidInfinity

/-- R103 `PNEW Pd, Fa, Fb, -, -`: infinity; `a.prime` and `b.prime` are not compared. -/
def execPnewN (pd : PReg) (fa fb : FReg) (s : State) : Outcome :=
  .next (s.commit (do
    let a ← s.readF fa
    let b ← s.readF fb
    return { write := .toPT pd ⟨a, b, .infinity⟩ }))

/-- R103 `PNEW Pd, Fa, Fb, -, Fy`. The destination is never written. -/
def execPnewY (_pd : PReg) (fa fb fy : FReg) (s : State) : Outcome :=
  .next (s.commit (loneCoordinate fa fb fy s))

/-- R103 `PNEW Pd, Fa, Fb, Fx, -`. The destination is never written. -/
def execPnewX (_pd : PReg) (fa fb fx : FReg) (s : State) : Outcome :=
  .next (s.commit (loneCoordinate fa fb fx s))

/-- R103 `PNEW Pd, Fa, Fb, Fx, Fy`: a concrete point, in one field and on the curve. -/
def execPnewXY (pd : PReg) (fa fb fx fy : FReg) (s : State) : Outcome :=
  .next (s.commit (do
    let a ← s.readF fa
    let b ← s.readF fb
    let x ← s.readF fx
    let y ← s.readF fy
    require (onePrime a b x y) .fieldMismatch
    require (oncurve a.value b.value x.value y.value a.prime) .notOnCurve
    return { write := .toPT pd ⟨a, b, .onCurve x y⟩ }))

/-- R104 `PADD Pd, Pa, Pb`: addition, doubling included. -/
def execPadd (pd pa pb : PReg) (s : State) : Outcome :=
  .next (s.commit (do
    let p1 ← s.readPT pa
    let p2 ← s.readPT pb
    let r ← ecadd p1 p2
    return { write := .toPT pd r }))

/-- R105 `PEQ Pa, Pb`: points of different curves compare unequal, which is no error. -/
def execPeq (pa pb : PReg) (s : State) : Outcome :=
  .next (s.commit (do
    let p1 ← s.readPT pa
    let p2 ← s.readPT pb
    return { flag := peqFlag p1 p2 }))

/-- R106 `PGET Pa`. -/
def execPget (pa : PReg) (s : State) : Outcome :=
  .next (s.commit (do
    let p ← s.readPT pa
    return { flag := pgetFlag p, dout := pgetDout p }))

end Sys2Proof.Machine
end

