-- ==== Sys2Proof/Machine/Scalar.lean ====
section
/-! DEFINITION. Scalar: the meaning of PMUL (spec/43_scalar_multiplication.md). -/

namespace Sys2Proof.Machine

/-- R121 `PMUL Pd, Pa, #k`; when `Internal` comes out of the fold no partial result is written. -/
def execPmul (pd pa : PReg) (s : State) : Outcome :=
  .next (s.commit (do
    let p ← s.readPT pa
    let r ← ecmul p s.din0
    return { write := .toPT pd r }))

end Sys2Proof.Machine
end

