-- ==== Sys2Proof/Machine/System.lean ====
section
/-! DEFINITION. System: the meaning of STAT (spec/44_system.md). -/

namespace Sys2Proof.Machine

/-- R130 `STAT`: it shows `STATUS` and, alone among the commands, does not write it. -/
def execStat (s : State) : Outcome :=
  .next (s.respond ⟨.ok, false, statDout s.status⟩)

end Sys2Proof.Machine
end

