-- ==== Sys2Proof/Machine/Dispatch.lean ====
section
/-! DEFINITION. Dispatch: one arm for each constructor of `Instr`, each a call of that instruction's own meaning. -/

namespace Sys2Proof.Machine

-- R54, R55: the eighteen rows of the opcode table.
def exec (i : Instr) (s : State) : Host.Outcome State Fault Refusal :=
  match i with
  | .stat => Sys2Proof.Machine.execStat s
  | .fnew fd => Sys2Proof.Machine.execFnew fd s
  | .fadd fd fa fb => Sys2Proof.Machine.execFadd fd fa fb s
  | .fsub fd fa fb => Sys2Proof.Machine.execFsub fd fa fb s
  | .fmul fd fa fb => Sys2Proof.Machine.execFmul fd fa fb s
  | .fpow fd fa => Sys2Proof.Machine.execFpow fd fa s
  | .finv fd fb => Sys2Proof.Machine.execFinv fd fb s
  | .fdiv fd fa fb => Sys2Proof.Machine.execFdiv fd fa fb s
  | .feq fa fb => Sys2Proof.Machine.execFeq fa fb s
  | .fget fa => Sys2Proof.Machine.execFget fa s
  | .pnewN pd fa fb => Sys2Proof.Machine.execPnewN pd fa fb s
  | .pnewY pd fa fb fy => Sys2Proof.Machine.execPnewY pd fa fb fy s
  | .pnewX pd fa fb fx => Sys2Proof.Machine.execPnewX pd fa fb fx s
  | .pnewXY pd fa fb fx fy => Sys2Proof.Machine.execPnewXY pd fa fb fx fy s
  | .padd pd pa pb => Sys2Proof.Machine.execPadd pd pa pb s
  | .pmul pd pa => Sys2Proof.Machine.execPmul pd pa s
  | .peq pa pb => Sys2Proof.Machine.execPeq pa pb s
  | .pget pa => Sys2Proof.Machine.execPget pa s

end Sys2Proof.Machine
end

