-- ==== Sys2Proof/Machine/Port.lean ====
section
/-! DEFINITION. Port: reset and the two handshakes of spec/30_encoding.md R63 (spec/70_reset_and_hazards.md R160 to R166):
the outputs of the block as functions of the state, and what an edge does in each phase. `Machine/Step.lean` calls these. -/

namespace Sys2Proof.Machine

/-- What the host drives at the coming edge: past the end of its list, nothing. -/
def State.edge (s : State) : HostEdge :=
  match s.inputs with
  | [] => HostEdge.quiet
  | e :: _ => e

/-- The edge has been sampled: the next one is up. -/
def State.advance (s : State) : State := { s with inputs := s.inputs.tail }

/-- R63: the output `cmd_ready`: 1 when the block is idle and `rst` is 0 (R160, R163). -/
def State.cmdReady (s : State) : Bool := s.port == .idle && !s.edge.rst

/-- R63: the outputs `rsp_status`, `rsp_flag` and `rsp_dout`, where `rsp_valid` is 1: in phase `done` with `rst` 0 (R160).
While `rsp_valid` is 0 the spec gives them no value, and none is modelled. -/
def State.rspOut (s : State) : Option Response :=
  match s.port with
  | .done r => if s.edge.rst then none else some r
  | .idle => none
  | .busy _ => none

/-- R63: the output `rsp_valid`. -/
def State.rspValid (s : State) : Bool := s.rspOut.isSome

/-- R160, R161: a clock edge with `rst = 1`: the reset state, whatever the block was doing; a command in flight and a
response not yet taken are lost. The host's side stays: it is not the block's. -/
def State.applyReset (s : State) : State := { s with toArch := Arch.reset, port := .idle }

/-- The command the host presents at an edge. -/
def HostEdge.command (e : HostEdge) : Command := ⟨e.cmdWord, e.cmdDin0, e.cmdDin1⟩

/-- R63, R166: at an edge in phase `idle` a command is taken when `cmd_valid = 1`; else the block keeps its state (R154). -/
def State.offerCommand (s : State) (e : HostEdge) : State :=
  if e.cmdValid then { s with port := .busy e.command } else s

/-- R63, R163: at an edge in phase `done` the response is taken when `rsp_ready = 1`; else it is held unchanged. -/
def State.offerResponse (s : State) (e : HostEdge) (r : Response) : State :=
  if e.rspReady then { s with port := .idle, collected := s.collected ++ [r] } else s

/-- R57, R144: a word that is no command ends with `IllegalCommand`. -/
def State.rejectWord (s : State) : State := s.raise .illegalCommand

/-- The word put where the next step fetches: the command in flight, its data inputs as the port has them, and an edge at
which the host does nothing in front of its other edges, so that the very next step runs the word (log entry 7). -/
def State.placeWord (s : State) (w : CmdWord) : State :=
  { s with port := .busy ⟨w, s.din0, s.din1⟩, inputs := HostEdge.quiet :: s.inputs }

end Sys2Proof.Machine
end

