-- ==== Sys2Proof/Machine/Step.lean ====
section
/-! DEFINITION. Step: one step is one clock edge at which something can happen at the ports: reset, a command offered, the
command in flight executed, or a response offered (log entry 3). The block fetches nothing (spec/10_state.md R27): a word
is run because the host presented it. -/

namespace Sys2Proof.Machine

/-- One edge. Reset comes before everything (R160, R161); else the phase decides (R163). -/
def step (s : State) : Host.Outcome State Fault Refusal :=
  if s.edge.rst then .next s.advance.applyReset
  else
    match s.port with
    | .idle => .next (s.advance.offerCommand s.edge)
    | .busy c =>
      match decode c.word with
      | some i => exec i s.advance
      | none => .next s.advance.rejectWord
    | .done r => .next (s.advance.offerResponse s.edge r)

/-- `s` with the table word `w` of `nbits` bits as the command in flight, so that the next step runs it (log entry 7). -/
def State.withFetchWord (s : State) (nbits w : Nat) : State :=
  s.placeWord (BitVec.ofNat 32 (w % 2 ^ nbits))

end Sys2Proof.Machine
end

