-- ==== Sys2Proof/Machine/Assembly.lean ====
section
/-! DEFINITION. Assembly: the assembly language of spec/30_encoding.md R60 and its pseudo-instructions (R61): a line as
data, the command it stands for, and the reading of a line of text. It is the host's side of the block; no step uses it. -/

namespace Sys2Proof

/-- R60, R61: an assembly line, destination first; `#n` operands are numbers, `-` is an absent coordinate of PNEW. -/
inductive Asm where
  | stat
  | fnew (fd : FReg) (value prime : Nat)
  | fadd (fd fa fb : FReg)
  | fsub (fd fa fb : FReg)
  | fmul (fd fa fb : FReg)
  | fdiv (fd fa fb : FReg)
  | fpow (fd fa : FReg) (exponent : Nat)
  | finv (fd fb : FReg)
  | feq (fa fb : FReg)
  | fget (fa : FReg)
  | pnew (pd : PReg) (fa fb : FReg) (fx fy : Option FReg)
  | padd (pd pa pb : PReg)
  | pmul (pd pa : PReg) (k : Nat)
  | peq (pa pb : PReg)
  | pget (pa : PReg)
  /-- R61: the point at infinity of curve `(a, b)`. -/
  | pinf (pd : PReg) (fa fb : FReg)
  /-- R61: doubling. -/
  | pdbl (pd pa : PReg)
  /-- R61: square. -/
  | fsqr (fd fa : FReg)
deriving DecidableEq, Repr

namespace Asm

/-- R60, R103: the form of PNEW, by the coordinates that are present. -/
def pnewForm (pd : PReg) (fa fb : FReg) : Option FReg → Option FReg → Instr
  | none, none => .pnewN pd fa fb
  | none, some fy => .pnewY pd fa fb fy
  | some fx, none => .pnewX pd fa fb fx
  | some fx, some fy => .pnewXY pd fa fb fx fy

/-- R60, R61: the instruction of a line; a pseudo-instruction is one command. -/
def toInstr : Asm → Instr
  | .stat => .stat
  | .fnew fd _ _ => .fnew fd
  | .fadd fd fa fb => .fadd fd fa fb
  | .fsub fd fa fb => .fsub fd fa fb
  | .fmul fd fa fb => .fmul fd fa fb
  | .fdiv fd fa fb => .fdiv fd fa fb
  | .fpow fd fa _ => .fpow fd fa
  | .finv fd fb => .finv fd fb
  | .feq fa fb => .feq fa fb
  | .fget fa => .fget fa
  | .pnew pd fa fb fx fy => pnewForm pd fa fb fx fy
  | .padd pd pa pb => .padd pd pa pb
  | .pmul pd pa _ => .pmul pd pa
  | .peq pa pb => .peq pa pb
  | .pget pa => .pget pa
  | .pinf pd fa fb => .pnewN pd fa fb
  | .pdbl pd pa => .padd pd pa pa
  | .fsqr fd fa => .fmul fd fa fa

/-- R60: the data inputs of a line; those a form does not name are presented as 0. -/
def din : Asm → Nat × Nat
  | .fnew _ value prime => (value, prime)
  | .fpow _ _ exponent => (exponent, 0)
  | .pmul _ _ k => (k, 0)
  | .stat => (0, 0)
  | .fadd _ _ _ => (0, 0)
  | .fsub _ _ _ => (0, 0)
  | .fmul _ _ _ => (0, 0)
  | .fdiv _ _ _ => (0, 0)
  | .finv _ _ => (0, 0)
  | .feq _ _ => (0, 0)
  | .fget _ => (0, 0)
  | .pnew _ _ _ _ _ => (0, 0)
  | .padd _ _ _ => (0, 0)
  | .peq _ _ => (0, 0)
  | .pget _ => (0, 0)
  | .pinf _ _ _ => (0, 0)
  | .pdbl _ _ => (0, 0)
  | .fsqr _ _ => (0, 0)

/-- R60: `#n` is in `0 <= n < 2^W`. -/
def WellFormed (a : Asm) : Prop := a.din.1 < 2 ^ Config.W ∧ a.din.2 < 2 ^ Config.W

/-- R60: the command a line stands for. -/
def assemble (a : Asm) : Command := ⟨encode a.toInstr, a.din.1, a.din.2⟩

/-! ### Reading a line of text -/

/-- The characters without the spaces at either end (log entry 13). -/
def trim (cs : List Char) : List Char :=
  ((cs.dropWhile (· == ' ')).reverse.dropWhile (· == ' ')).reverse

/-- A decimal digit. -/
def decDigit (c : Char) : Option Nat :=
  if '0'.toNat ≤ c.toNat && c.toNat ≤ '9'.toNat then some (c.toNat - '0'.toNat) else none

/-- A hexadecimal digit, in either case. -/
def hexDigit (c : Char) : Option Nat :=
  if 'a'.toNat ≤ c.toNat && c.toNat ≤ 'f'.toNat then some (c.toNat - 'a'.toNat + 10)
  else if 'A'.toNat ≤ c.toNat && c.toNat ≤ 'F'.toNat then some (c.toNat - 'A'.toNat + 10)
  else decDigit c

/-- The number that digits read on from `sofar` give. -/
def digits (base : Nat) (digit : Char → Option Nat) (sofar : Nat) : List Char → Option Nat
  | [] => some sofar
  | c :: cs =>
    match digit c with
    | some d => digits base digit (sofar * base + d) cs
    | none => none

/-- A number has at least one digit. -/
def number (base : Nat) (digit : Char → Option Nat) : List Char → Option Nat
  | [] => none
  | c :: cs => digits base digit 0 (c :: cs)

/-- R60: a register number, decimal `0 .. 15`. -/
def regNumber (cs : List Char) : Option (Fin 16) :=
  match number 10 decDigit cs with
  | some n => if h : n < 16 then some ⟨n, h⟩ else none
  | none => none

/-- R60: `Fn`. -/
def fReg : List Char → Option FReg
  | 'F' :: cs => regNumber cs
  | _ => none

/-- R60: `PTn`. -/
def ptReg : List Char → Option PReg
  | 'P' :: 'T' :: cs => regNumber cs
  | _ => none

/-- R60: `#n`, decimal or `0x` hexadecimal. -/
def immediate : List Char → Option Nat
  | '#' :: '0' :: 'x' :: cs => number 16 hexDigit cs
  | '#' :: cs => number 10 decDigit cs
  | _ => none

/-- R60: a coordinate of PNEW: a register, or `-` for an absent one. -/
def coordinate (cs : List Char) : Option (Option FReg) :=
  if cs = ['-'] then some none else (fReg cs).map some

/-- The operands of a line: separated by commas. -/
def operands (cs : List Char) : List (List Char) :=
  if trim cs = [] then [] else (cs.splitOn ',').map trim

/-- Two or three registers of one file. -/
def two {α β : Type} (reg : List Char → Option α) (k : α → α → β) : List (List Char) → Option β
  | [a, b] => do return k (← reg a) (← reg b)
  | _ => none

/-- Three registers of one file. -/
def three {α β : Type} (reg : List Char → Option α) (k : α → α → α → β) : List (List Char) → Option β
  | [a, b, c] => do return k (← reg a) (← reg b) (← reg c)
  | _ => none

/-- R60, R61: a mnemonic and its operands. -/
def fromParts (mnemonic : String) (ops : List (List Char)) : Option Asm :=
  match mnemonic with
  | "STAT" => if ops = [] then some .stat else none
  | "FNEW" =>
    match ops with
    | [d, v, p] => do return .fnew (← fReg d) (← immediate v) (← immediate p)
    | _ => none
  | "FADD" => three fReg .fadd ops
  | "FSUB" => three fReg .fsub ops
  | "FMUL" => three fReg .fmul ops
  | "FDIV" => three fReg .fdiv ops
  | "FPOW" =>
    match ops with
    | [d, a, e] => do return .fpow (← fReg d) (← fReg a) (← immediate e)
    | _ => none
  | "FINV" => two fReg .finv ops
  | "FEQ" => two fReg .feq ops
  | "FGET" =>
    match ops with
    | [a] => (fReg a).map .fget
    | _ => none
  | "PNEW" =>
    match ops with
    | [d, a, b, x, y] => do
      return .pnew (← ptReg d) (← fReg a) (← fReg b) (← coordinate x) (← coordinate y)
    | _ => none
  | "PADD" => three ptReg .padd ops
  | "PMUL" =>
    match ops with
    | [d, a, k] => do return .pmul (← ptReg d) (← ptReg a) (← immediate k)
    | _ => none
  | "PEQ" => two ptReg .peq ops
  | "PGET" =>
    match ops with
    | [a] => (ptReg a).map .pget
    | _ => none
  | "PINF" =>
    match ops with
    | [d, a, b] => do return .pinf (← ptReg d) (← fReg a) (← fReg b)
    | _ => none
  | "PDBL" => two ptReg .pdbl ops
  | "FSQR" => two fReg .fsqr ops
  | _ => none

/-- R60: one command a line: a mnemonic, its operands, and a comment after `;`. A line that is no command gives none. -/
def parseLine (line : List Char) : Option Asm :=
  let body := trim (line.takeWhile (· != ';'))
  fromParts (String.ofList (body.takeWhile (· != ' '))) (operands (body.dropWhile (· != ' ')))

end Asm

end Sys2Proof
end

