-- ==== Sys2Proof/WellFormed.lean ====
section
/-! DEFINITION. WellFormed: which seven-field words are commands (spec/30_encoding.md R54, R56, said field by field and
not by the masks the decoder uses), and which commands the port can carry (R50, R52). An `Instr` has no further check:
its operands are register numbers, and every 4-bit value is a valid index in both files (R51). -/

namespace Sys2Proof

/-- Which of the first three register fields an opcode uses. -/
structure Uses where
  rd : Bool
  rs1 : Bool
  rs2 : Bool
deriving DecidableEq, Repr

/-- R54: the fifteen opcodes, each with the register fields it uses (R55); any other opcode value is undefined. -/
def opcodeUses (opcode : BitVec 8) : Option Uses :=
  match opcode.toNat with
  | 0x01 => some ⟨false, false, false⟩
  | 0x10 => some ⟨true, false, false⟩
  | 0x11 => some ⟨true, true, true⟩
  | 0x12 => some ⟨true, true, true⟩
  | 0x13 => some ⟨true, true, true⟩
  | 0x14 => some ⟨true, true, false⟩
  | 0x15 => some ⟨true, true, false⟩
  | 0x16 => some ⟨true, true, true⟩
  | 0x17 => some ⟨false, true, true⟩
  | 0x18 => some ⟨false, true, false⟩
  | 0x20 => some ⟨true, true, true⟩
  | 0x21 => some ⟨true, true, true⟩
  | 0x22 => some ⟨true, true, false⟩
  | 0x23 => some ⟨false, true, true⟩
  | 0x24 => some ⟨false, true, false⟩
  | _ => none

/-- The opcode is PNEW's, the only one that uses `rs3`, `rs4` and `cp` (R51). -/
def Fields.isPnew (f : Fields) : Bool := f.opcode == 0x20#8

/-- R51, R103: `xp`, the word says that `x` is supplied (PNEW only). -/
def Fields.xp (f : Fields) : Bool := f.isPnew && f.cp.getLsbD 1

/-- R51, R103: `yp`, the word says that `y` is supplied (PNEW only). -/
def Fields.yp (f : Fields) : Bool := f.isPnew && f.cp.getLsbD 0

/-- A field that is not used is zero (R56). -/
def zeroUnlessUsed (used : Bool) (field : BitVec 4) : Bool := used || field == 0#4

/-- R56: `cp` is zero outside PNEW, and its bits 3:2 are zero in PNEW. -/
def Fields.cpLegal (f : Fields) : Bool :=
  if f.isPnew then !(f.cp.getLsbD 3) && !(f.cp.getLsbD 2) else f.cp == 0#4

/-- R54, R56: the fields form a command: the opcode is defined, every field it does not use is zero, and in PNEW
`rs3` and `rs4` follow `cp`. -/
def Fields.wf (f : Fields) : Bool :=
  match opcodeUses f.opcode with
  | none => false
  | some u =>
    zeroUnlessUsed u.rd f.rd && zeroUnlessUsed u.rs1 f.rs1 && zeroUnlessUsed u.rs2 f.rs2 &&
      zeroUnlessUsed f.xp f.rs3 && zeroUnlessUsed f.yp f.rs4 && f.cpLegal

/-- R50, R52: both data inputs of the command are `W`-bit unsigned integers. -/
def Command.WellFormed (c : Command) : Prop := c.din0 < 2 ^ Config.W ∧ c.din1 < 2 ^ Config.W

end Sys2Proof
end

