-- ==== Sys2Proof/Safety.lean ====
section
/-! DEFINITION. Safety: the terms claims use: the invariants of spec/10_state.md R25, the states a command can leave, what
each instruction may write and may answer (R20, R21, R141), the block as the function of spec/00_scope.md R8, and a host
that presents commands and collects responses (R166). -/

namespace Sys2Proof.Machine

/-! ### The invariants of R25 -/

/-- I-F, the source's "`0 ≤ value < prime` always". -/
def FE.InField (e : FE) : Prop := e.value < e.prime

/-- R20: `value` and `prime` are `W`-bit integers; `prime < 2^W` says so of both when `value < prime`. -/
def FE.Fits (e : FE) : Prop := e.prime < 2 ^ Config.W

/-- I-P1, I-P2 for the coordinates of a point with curve constants `a` and `b`. -/
def Coord.Lawful (a b : FE) : Coord → Prop
  | .infinity => True
  | .onCurve x y =>
    x.InField ∧ y.InField ∧ a.prime = b.prime ∧ b.prime = x.prime ∧ x.prime = y.prime ∧
      oncurve a.value b.value x.value y.value a.prime = true

/-- I-P1, I-P2, I-P3: every element is in its field; a concrete point has one prime and lies on its curve; the constants
of an infinity may have different primes. -/
def Point.Lawful (p : Point) : Prop := p.a.InField ∧ p.b.InField ∧ p.c.Lawful p.a p.b

/-- The elements of a coordinate state fit `W` bits. -/
def Coord.Fits : Coord → Prop
  | .infinity => True
  | .onCurve x y => x.Fits ∧ y.Fits

/-- The elements of a point fit `W` bits. -/
def Point.Fits (p : Point) : Prop := p.a.Fits ∧ p.b.Fits ∧ p.c.Fits

/-- R25 of the whole architectural state (I-S, `STATUS <= 8`, holds by the type of `STATUS`). -/
structure Arch.Inv (a : Arch) : Prop where
  fInField : ∀ (i : FReg) (e : FE), a.f[i] = .full e → e.InField
  fFits : ∀ (i : FReg) (e : FE), a.f[i] = .full e → e.Fits
  ptLawful : ∀ (i : PReg) (p : Point), a.pt[i] = .full p → p.Lawful
  ptFits : ∀ (i : PReg) (p : Point), a.pt[i] = .full p → p.Fits

/-- R53: data words are `W` bits wide, and a response that is not `OK` shows zeros only. -/
structure Response.Inv (r : Response) : Prop where
  fits : ∀ i : Fin 8, r.dout[i] < 2 ^ Config.W
  failureIsBare : r.status ≠ .ok → r.flag = false ∧ r.dout = Dout.zero

/-- R50, R53: what the port holds is a command the port can carry, or a response. -/
def Port.Inv : Port → Prop
  | .idle => True
  | .busy c => c.WellFormed
  | .done r => r.Inv

/-- The machine's invariant: R25, and every word on the port, driven or collected, fits the port. -/
structure State.Inv (s : State) : Prop where
  arch : s.toArch.Inv
  port : s.port.Inv
  inputs : ∀ e ∈ s.inputs, e.command.WellFormed
  collected : ∀ r ∈ s.collected, r.Inv

/-! ### What a command can leave -/

/-- R144: a command that failed: `STATUS` and the response say so, and nothing else changed. -/
def State.failed (s : State) (st : Status) : State :=
  { s with status := st, port := .done ⟨st, false, #v[0, 0, 0, 0, 0, 0, 0, 0]⟩ }

/-- A command that succeeded and wrote `F[fd]`. -/
def State.wroteF (s : State) (fd : FReg) (v : FE) : State :=
  { s with f := s.f.set fd (.full v), status := .ok, port := .done ⟨.ok, false, #v[0, 0, 0, 0, 0, 0, 0, 0]⟩ }

/-- A command that succeeded and wrote `PT[pd]`. -/
def State.wrotePT (s : State) (pd : PReg) (v : Point) : State :=
  { s with pt := s.pt.set pd (.full v), status := .ok, port := .done ⟨.ok, false, #v[0, 0, 0, 0, 0, 0, 0, 0]⟩ }

/-- A command that succeeded, wrote no register and answered `flag` and `dout`. -/
def State.showed (s : State) (flag : Bool) (dout : Vector Nat 8) : State :=
  { s with status := .ok, port := .done ⟨.ok, flag, dout⟩ }

/-! ### What each instruction may touch and may answer -/

end Sys2Proof.Machine

namespace Sys2Proof

open Machine (Status)

/-- R20: the field-element register an instruction writes, if any. -/
def Instr.destF : Instr → Option FReg
  | .fnew fd => some fd
  | .fadd fd _ _ => some fd
  | .fsub fd _ _ => some fd
  | .fmul fd _ _ => some fd
  | .fpow fd _ => some fd
  | .finv fd _ => some fd
  | .fdiv fd _ _ => some fd
  | .stat => none
  | .feq _ _ => none
  | .fget _ => none
  | .pnewN _ _ _ => none
  | .pnewY _ _ _ _ => none
  | .pnewX _ _ _ _ => none
  | .pnewXY _ _ _ _ _ => none
  | .padd _ _ _ => none
  | .pmul _ _ => none
  | .peq _ _ => none
  | .pget _ => none

/-- R21: the point register an instruction writes, if any. -/
def Instr.destPT : Instr → Option PReg
  | .pnewN pd _ _ => some pd
  | .pnewXY pd _ _ _ _ => some pd
  | .padd pd _ _ => some pd
  | .pmul pd _ => some pd
  | .pnewY _ _ _ _ => none
  | .pnewX _ _ _ _ => none
  | .stat => none
  | .fnew _ => none
  | .fadd _ _ _ => none
  | .fsub _ _ _ => none
  | .fmul _ _ _ => none
  | .fpow _ _ => none
  | .finv _ _ => none
  | .fdiv _ _ _ => none
  | .feq _ _ => none
  | .fget _ => none
  | .peq _ _ => none
  | .pget _ => none

/-- R51, R55: the field-element registers an instruction reads, in the order of R59. -/
def Instr.sourcesF : Instr → List FReg
  | .fadd _ fa fb => [fa, fb]
  | .fsub _ fa fb => [fa, fb]
  | .fmul _ fa fb => [fa, fb]
  | .fpow _ fa => [fa]
  | .finv _ fb => [fb]
  | .fdiv _ fa fb => [fa, fb]
  | .feq fa fb => [fa, fb]
  | .fget fa => [fa]
  | .pnewN _ fa fb => [fa, fb]
  | .pnewY _ fa fb fy => [fa, fb, fy]
  | .pnewX _ fa fb fx => [fa, fb, fx]
  | .pnewXY _ fa fb fx fy => [fa, fb, fx, fy]
  | .stat => []
  | .fnew _ => []
  | .padd _ _ _ => []
  | .pmul _ _ => []
  | .peq _ _ => []
  | .pget _ => []

/-- R51, R55: the point registers an instruction reads. -/
def Instr.sourcesPT : Instr → List PReg
  | .padd _ pa pb => [pa, pb]
  | .pmul _ pa => [pa]
  | .peq pa pb => [pa, pb]
  | .pget pa => [pa]
  | .stat => []
  | .fnew _ => []
  | .fadd _ _ _ => []
  | .fsub _ _ _ => []
  | .fmul _ _ _ => []
  | .fpow _ _ => []
  | .finv _ _ => []
  | .fdiv _ _ _ => []
  | .feq _ _ => []
  | .fget _ => []
  | .pnewN _ _ _ => []
  | .pnewY _ _ _ _ => []
  | .pnewX _ _ _ _ => []
  | .pnewXY _ _ _ _ _ => []

/-- R141: the statuses an instruction can answer. -/
def Instr.statuses : Instr → List Status
  | .stat => [.ok]
  | .fnew _ => [.ok, .outOfRange]
  | .fadd _ _ _ => [.ok, .emptyRegister, .fieldMismatch]
  | .fsub _ _ _ => [.ok, .emptyRegister, .fieldMismatch]
  | .fmul _ _ _ => [.ok, .emptyRegister, .fieldMismatch]
  | .fpow _ _ => [.ok, .emptyRegister]
  | .finv _ _ => [.ok, .emptyRegister, .divisionByZero]
  | .fdiv _ _ _ => [.ok, .emptyRegister, .fieldMismatch, .divisionByZero]
  | .feq _ _ => [.ok, .emptyRegister]
  | .fget _ => [.ok, .emptyRegister]
  | .pnewN _ _ _ => [.ok, .emptyRegister]
  | .pnewY _ _ _ _ => [.emptyRegister, .invalidInfinity]
  | .pnewX _ _ _ _ => [.emptyRegister, .invalidInfinity]
  | .pnewXY _ _ _ _ _ => [.ok, .emptyRegister, .fieldMismatch, .notOnCurve]
  | .padd _ _ _ => [.ok, .emptyRegister, .fieldMismatch, .internal]
  | .pmul _ _ => [.ok, .emptyRegister, .internal]
  | .peq _ _ => [.ok, .emptyRegister]
  | .pget _ => [.ok, .emptyRegister]

/-- R53: the instructions whose response names `flag`: FEQ, PEQ, PGET. -/
def Instr.namesFlag : Instr → Bool
  | .feq _ _ => true
  | .peq _ _ => true
  | .pget _ => true
  | .stat => false
  | .fnew _ => false
  | .fadd _ _ _ => false
  | .fsub _ _ _ => false
  | .fmul _ _ _ => false
  | .fpow _ _ => false
  | .finv _ _ => false
  | .fdiv _ _ _ => false
  | .fget _ => false
  | .pnewN _ _ _ => false
  | .pnewY _ _ _ _ => false
  | .pnewX _ _ _ _ => false
  | .pnewXY _ _ _ _ _ => false
  | .padd _ _ _ => false
  | .pmul _ _ => false

/-- R53: how many of the data words a response names, from `dout[0]` on: FGET two, PGET eight, STAT one. -/
def Instr.namesDout : Instr → Nat
  | .fget _ => 2
  | .pget _ => 8
  | .stat => 1
  | .feq _ _ => 0
  | .peq _ _ => 0
  | .fnew _ => 0
  | .fadd _ _ _ => 0
  | .fsub _ _ _ => 0
  | .fmul _ _ _ => 0
  | .fpow _ _ => 0
  | .finv _ _ => 0
  | .fdiv _ _ _ => 0
  | .pnewN _ _ _ => 0
  | .pnewY _ _ _ _ => 0
  | .pnewX _ _ _ _ => 0
  | .pnewXY _ _ _ _ _ => 0
  | .padd _ _ _ => 0
  | .pmul _ _ => 0

/-- R52: how many of the two data inputs an instruction uses, `din0` first: FNEW two, FPOW and PMUL one. -/
def Instr.usesDin : Instr → Nat
  | .fnew _ => 2
  | .fpow _ _ => 1
  | .pmul _ _ => 1
  | .stat => 0
  | .fadd _ _ _ => 0
  | .fsub _ _ _ => 0
  | .fmul _ _ _ => 0
  | .finv _ _ => 0
  | .fdiv _ _ _ => 0
  | .feq _ _ => 0
  | .fget _ => 0
  | .pnewN _ _ _ => 0
  | .pnewY _ _ _ _ => 0
  | .pnewX _ _ _ _ => 0
  | .pnewXY _ _ _ _ _ => 0
  | .padd _ _ _ => 0
  | .peq _ _ => 0
  | .pget _ => 0

end Sys2Proof

namespace Sys2Proof.Machine

/-! ### The arithmetic the spec defines twice -/

/-- R90, the second definition: `acc_0 = 1 mod p`, `acc_(i+1) = modmul(acc_i, a, p)`. -/
def modpowIter (a p : Nat) : Nat → Nat
  | 0 => 1 % p
  | i + 1 => modmul (modpowIter a p i) a p

/-! ### The block as a function, and a host -/

/-- R8: `exec : State x Command -> State x Response`, read off one step; none if the step gave no response. -/
def answer (a : Arch) (c : Command) : Option (Arch × Response) :=
  match step { a with port := .busy c, inputs := [], collected := [] } with
  | .next t =>
    match t.port with
    | .done r => some (t.toArch, r)
    | .idle => none
    | .busy _ => none
  | .fault _ => none
  | .refused _ => none

/-- R44: a list of commands, each from the state its predecessor left, and their responses in order. -/
def answers (a : Arch) : List Command → Option (Arch × List Response)
  | [] => some (a, [])
  | c :: cs =>
    match answer a c with
    | none => none
    | some (a', r) => (answers a' cs).map fun x => (x.1, r :: x.2)

/-- One command of a host's plan: how many edges it lets pass before presenting the command, and how many before it takes
the response. -/
structure Turn where
  command : Command
  before : Nat
  wait : Nat
deriving DecidableEq, Repr

/-- The edge at which a host presents a command. -/
def presentEdge (c : Command) : HostEdge := ⟨false, true, c.word, c.din0, c.din1, false⟩

/-- The edge at which a host takes a response. -/
def takeEdge : HostEdge := ⟨false, false, 0, 0, 0, true⟩

/-- R166: what the host drives for one command. -/
def Turn.edges (t : Turn) : List HostEdge :=
  List.replicate t.before HostEdge.quiet ++ presentEdge t.command :: HostEdge.quiet ::
    (List.replicate t.wait HostEdge.quiet ++ [takeEdge])

/-- The edges of a whole plan. -/
def planEdges : List Turn → List HostEdge
  | [] => []
  | t :: ts => t.edges ++ planEdges ts

/-- `n` steps, as long as each gives a next state. -/
def steps : Nat → State → Option State
  | 0, s => some s
  | n + 1, s =>
    match step s with
    | .next t => steps n t
    | .fault _ => none
    | .refused _ => none

end Sys2Proof.Machine
end

