-- ==== Sys2Proof/Certificates/Slice0/Obligations.lean ====
section
/-! DEFINITION. Obligations: the statements for the provers. Each formalises rules of spec/, named in its docstring; a
docstring that names a log entry says which part is the model's own choice. -/

open Sys2Proof Sys2Proof.Machine

/-! ### Encoding and decoding (spec/30_encoding.md) -/

/-- 30_encoding.md sections 3 and 4: no bit of an encoding is dropped: decoding an instruction's word gives it back, for
every instruction and every register it can name. -/
def Obligations.DecodeOfEncodeIsTheInstruction : Prop :=
  ∀ i : Instr, decode (encode i) = some i

/-- 30_encoding.md section 3: each command has one word: a word that decodes to `i` is the encoding of `i`. -/
def Obligations.EachInstructionHasOneWord : Prop :=
  ∀ (w : CmdWord) (i : Instr), decode w = some i → encode i = w

/-- 30_encoding.md section 3, "The eighteen rows are pairwise disjoint (no word matches two rows)". -/
def Obligations.NoWordMatchesTwoRows : Prop :=
  ∀ (w : CmdWord) (j k : Nat) (hj : j < rows.length) (hk : k < rows.length),
    rows[j].matches w = true → rows[k].matches w = true → j = k

/-- 30_encoding.md sections 3 and 4 (the opcode map and the reserved fields): the words the masks of the opcode table
accept are exactly those whose opcode is defined and whose unused fields are zero. -/
def Obligations.IllegalWordsAreTheIllFormedOnes : Prop :=
  ∀ w : CmdWord, decode w = none ↔ (fieldsOf w).wf = false

/-- 30_encoding.md section 4, in a step: a word that is no command ends `IllegalCommand`, writes no register and sets `STATUS`
to 7, whatever the registers hold; the all-zero and the all-one word are such words. The model's choices: that the very next
edge ends the command (log entry 3) and that it takes one element of `inputs` and leaves `collected` (log entries 4, 5). -/
def Obligations.IllegalCommandChangesOnlyStatus : Prop :=
  (∀ (s : State) (c : Command), s.port = .busy c → s.edge.rst = false → (fieldsOf c.word).wf = false →
    step s = .next (s.advance.failed .illegalCommand)) ∧
  (fieldsOf 0x00000000#32).wf = false ∧ (fieldsOf 0xFFFFFFFF#32).wf = false ∧
  (Status.illegalCommand).code = 7#4

/-- 30_encoding.md section 3, on a few words: the first words of spec/95_test_vectors.md section 2.6, every field
different from its neighbours. -/
def Obligations.WrittenOutWordsDecode : Prop :=
  decode 0x01000000#32 = some .stat ∧
  decode 0x11123000#32 = some (.fadd 1 2 3) ∧
  decode 0x12FED000#32 = some (.fsub 15 14 13) ∧
  decode 0x15AB0000#32 = some (.finv 10 11) ∧
  decode 0x209ABC02#32 = some (.pnewX 9 10 11 12) ∧
  decode 0x20DEF011#32 = some (.pnewY 13 14 15 1) ∧
  decode 0x20123453#32 = some (.pnewXY 1 2 3 4 5) ∧
  decode 0x22560000#32 = some (.pmul 5 6)

/-- R61: each pseudo-instruction is one command, the one the rule's table gives, data inputs included. -/
def Obligations.PseudoInstructionsExpand : Prop :=
  (∀ (pd : PReg) (fa fb : FReg),
    (Asm.pinf pd fa fb).assemble = (Asm.pnew pd fa fb none none).assemble) ∧
  (∀ pd pa : PReg, (Asm.pdbl pd pa).assemble = (Asm.padd pd pa pa).assemble) ∧
  (∀ fd fa : FReg, (Asm.fsqr fd fa).assemble = (Asm.fmul fd fa fa).assemble)

/-! ### The units (spec/40_field_arithmetic.md, spec/41_field_inversion.md) -/

/-- R70: modular_adder: the residue of the exact sum, below `p`, by one conditional subtraction. -/
def Obligations.ModularAdderIsResidueOfSum : Prop :=
  ∀ a b p : Nat, a < p → b < p →
    modadd a b p = (a + b) % p ∧ modadd a b p < p ∧ a + b < 2 * p ∧
    modadd a b p = (if a + b < p then a + b else a + b - p)

/-- R71: modular_subtractor: both cases, the range of each, and the residue of `a + p - b`. -/
def Obligations.ModularSubtractorIsFieldDifference : Prop :=
  ∀ a b p : Nat, a < p → b < p →
    (b ≤ a → modsub a b p = a - b) ∧
    (a < b → modsub a b p = p - (b - a) ∧ 1 ≤ modsub a b p ∧ 0 < b - a ∧ b - a < p) ∧
    modsub a b p < p ∧ modsub a b p = (a + p - b) % p

/-- R72: modular_multiplier: the residue of the exact product. -/
def Obligations.ModularMultiplierIsResidueOfProduct : Prop :=
  ∀ a b p : Nat, a < p → b < p → modmul a b p = (a * b) % p ∧ modmul a b p < p

/-- 40_field_arithmetic.md section 3: closure, the ring laws for every modulus, the uniqueness of a difference, and the
additive inverse (read as spec/90_conflicts.md C4 has it). -/
def Obligations.RingLawsForEveryModulus : Prop :=
  ∀ a b c p : Nat, a < p → b < p → c < p →
    modadd a b p < p ∧ modsub a b p < p ∧ modmul a b p < p ∧
    modadd a b p = modadd b a p ∧ modmul a b p = modmul b a p ∧
    modadd (modadd a b p) c p = modadd a (modadd b c p) p ∧
    modmul (modmul a b p) c p = modmul a (modmul b c p) p ∧
    modmul a (modadd b c p) p = modadd (modmul a b p) (modmul a c p) p ∧
    (∀ d, d < p → (modadd d b p = a ↔ d = modsub a b p)) ∧
    modadd a ((p - a) % p) p = 0

/-- 41_field_inversion.md section 1 (that its two definitions agree is what the spec derives): exponentiation is the
iterated modular multiplication; the result is below `p`; exponent 0 gives `1 mod p` also for 0, and exponent 1 gives
`a`. -/
def Obligations.ExponentiationIsIteratedMultiplication : Prop :=
  ∀ a e p : Nat, a < p →
    modpow a e p = (a ^ e) % p ∧ modpow a e p = modpowIter a p e ∧ modpow a e p < p ∧
    modpow a 0 p = 1 % p ∧ modpow a 1 p = a

/-- R91: inversion is the power `p - 2`, an inverse when `p` is prime, and evaluated literally when it is not. -/
def Obligations.FermatInversion : Prop :=
  (∀ b p : Nat, b < p → b ≠ 0 → 2 ≤ p ∧ modinv b p = modpow b (p - 2) p) ∧
  (∀ b p : Nat, p.Prime → b < p → b ≠ 0 → modmul b (modinv b p) p = 1) ∧
  modinv 3 4 = 1 ∧ modmul 3 1 4 = 3 ∧ modmul 3 3 4 = 1 ∧ modinv 2 4 = 0 ∧ modinv 1 2 = 1

/-- 41_field_inversion.md section 3 (what the spec derives from its rules): the law of exponents for every modulus; the
three laws of division for a prime modulus; division by definition. -/
def Obligations.DivisionLaws : Prop :=
  (∀ a e1 e2 p : Nat, 1 ≤ p → modpow a (e1 + e2) p = modmul (modpow a e1 p) (modpow a e2 p) p) ∧
  (∀ a b p : Nat, p.Prime → a < p → b < p → b ≠ 0 →
    modmul b (modinv b p) p = 1 ∧ moddiv (modmul a b p) b p = a ∧ (a ≠ 0 → moddiv a a p = 1)) ∧
  (∀ a b p : Nat, b ≠ 0 → moddiv a b p = modmul a (modpow b (p - 2) p) p)

/-- R73 and R101: the two equalities: value and prime of an element; of points, the curve constants and the coordinate
state; so an infinity never equals a concrete point, and infinities of different curves are not equal. -/
def Obligations.EqualityOfElementsAndPoints : Prop :=
  (∀ e1 e2 : FE, e1.eqv e2 = true ↔ e1.value = e2.value ∧ e1.prime = e2.prime) ∧
  (∀ p q : Point, p.eqv q = true ↔
    (p.a.eqv q.a = true ∧ p.b.eqv q.b = true ∧
      ((p.c = .infinity ∧ q.c = .infinity) ∨
        ∃ x1 y1 x2 y2, p.c = .onCurve x1 y1 ∧ q.c = .onCurve x2 y2 ∧ x1.eqv x2 = true ∧ y1.eqv y2 = true))) ∧
  (∀ p q : Point, p.eqv q = true ↔ p = q)

/-! ### Curve arithmetic (spec/42_point_arithmetic.md, spec/43_scalar_multiplication.md) -/

/-- R100: the membership test decides `y² = x³ + a·x + b` modulo `p`. -/
def Obligations.CurveMembershipIsTheEquation : Prop :=
  ∀ a b x y p : Nat, a < p → b < p → x < p → y < p →
    (oncurve a b x y p = true ↔ y * y ≡ x * x * x + a * x + b [MOD p])

/-- 42_point_arithmetic.md section 1, the steps of `ecadd`: which case decides, for every two points: different curve
constants, an infinity on either side, the vertical line, doubling, distinct points, and the case left over. -/
def Obligations.PointAdditionCases : Prop :=
  (∀ p q : Point, ¬(p.a = q.a ∧ p.b = q.b) → ecadd p q = .error .fieldMismatch) ∧
  (∀ (a b : FE) (q : Coord), ecadd ⟨a, b, .infinity⟩ ⟨a, b, q⟩ = .ok ⟨a, b, q⟩) ∧
  (∀ (a b : FE) (c : Coord), ecadd ⟨a, b, c⟩ ⟨a, b, .infinity⟩ = .ok ⟨a, b, c⟩) ∧
  (∀ (a b x1 y1 x2 y2 : FE), x1.value = x2.value → (y1.value + y2.value) % a.prime = 0 →
    ecadd ⟨a, b, .onCurve x1 y1⟩ ⟨a, b, .onCurve x2 y2⟩ = .ok ⟨a, b, .infinity⟩) ∧
  (∀ (a b x1 y1 x2 y2 : FE), x1.value = x2.value → (y1.value + y2.value) % a.prime ≠ 0 → y1.value = y2.value →
    ecadd ⟨a, b, .onCurve x1 y1⟩ ⟨a, b, .onCurve x2 y2⟩ =
      thirdPoint ⟨a, b, .onCurve x1 y1⟩ x1.value y1.value x2.value
        (moddiv ((3 * x1.value ^ 2 + a.value) % a.prime) ((2 * y1.value) % a.prime) a.prime) a.prime) ∧
  (∀ (a b x1 y1 x2 y2 : FE), x1.value ≠ x2.value →
    ecadd ⟨a, b, .onCurve x1 y1⟩ ⟨a, b, .onCurve x2 y2⟩ =
      thirdPoint ⟨a, b, .onCurve x1 y1⟩ x1.value y1.value x2.value
        (moddiv (modsub y2.value y1.value a.prime) (modsub x2.value x1.value a.prime) a.prime) a.prime) ∧
  (∀ (a b x1 y1 x2 y2 : FE), x1.value = x2.value → (y1.value + y2.value) % a.prime ≠ 0 → y1.value ≠ y2.value →
    ecadd ⟨a, b, .onCurve x1 y1⟩ ⟨a, b, .onCurve x2 y2⟩ = .error .internal)

/-- 42_point_arithmetic.md section 1, step 5 and the note on divisors: the third point is `s² - x1 - x2`,
`s·(x1 - x3) - y1` modulo the prime, accepted exactly when it is on the curve; and neither divisor of a slope is 0. -/
def Obligations.ThirdPointIsCheckedAndDivisorsAreNotZero : Prop :=
  (∀ (P : Point) (x1 y1 x2 s p : Nat), x1 < p → y1 < p → x2 < p →
    ∃ x3 y3 : Nat, x3 < p ∧ y3 < p ∧
      (x3 + x1 + x2 ≡ s * s [MOD p]) ∧ (y3 + y1 + s * x3 ≡ s * x1 [MOD p]) ∧
      thirdPoint P x1 y1 x2 s p =
        if oncurve P.a.value P.b.value x3 y3 p then .ok ⟨P.a, P.b, .onCurve ⟨x3, p⟩ ⟨y3, p⟩⟩
        else .error .internal) ∧
  (∀ y1 y2 p : Nat, modadd y1 y2 p ≠ 0 → y1 = y2 → modadd y1 y1 p ≠ 0) ∧
  (∀ x1 x2 p : Nat, x1 < p → x2 < p → x1 ≠ x2 → modsub x2 x1 p ≠ 0)

/-- 42_point_arithmetic.md section 3, closure: what `ecadd` returns from two lawful points is a lawful point with the same
curve constants, for every modulus, prime or not. -/
def Obligations.PointAdditionStaysOnTheCurve : Prop :=
  ∀ p q r : Point, p.Lawful → q.Lawful → ecadd p q = .ok r → r.Lawful ∧ r.a = p.a ∧ r.b = p.b

/-- 42_point_arithmetic.md section 3: the identity, inverse and doubling-at-zero laws hold for every modulus, and
associativity is not a law: the rule's own counter-example on `y² = x³` over 7. -/
def Obligations.GroupLawsOfEveryModulus : Prop :=
  (∀ q : Point, ecadd ⟨q.a, q.b, .infinity⟩ q = .ok q ∧ ecadd q ⟨q.a, q.b, .infinity⟩ = .ok q) ∧
  (∀ a b x y : FE, (⟨a, b, .onCurve x y⟩ : Point).Lawful →
    ecadd ⟨a, b, .onCurve x y⟩ ⟨a, b, .onCurve x ⟨modsub 0 y.value y.prime, y.prime⟩⟩ = .ok ⟨a, b, .infinity⟩) ∧
  (∀ a b x y : FE, y.value = 0 →
    ecadd ⟨a, b, .onCurve x y⟩ ⟨a, b, .onCurve x y⟩ = .ok ⟨a, b, .infinity⟩) ∧
  (∃ z r : Point, z.Lawful ∧ r.Lawful ∧
    (ecadd z z).bind (fun u => ecadd u r) ≠ (ecadd z r).bind (fun v => ecadd z v))

/-- 42_point_arithmetic.md section 3: for a prime modulus addition is commutative. -/
def Obligations.PointAdditionCommutesForPrimes : Prop :=
  ∀ p q : Point, p.Lawful → q.Lawful → p.a = q.a → p.b = q.b → p.a.prime.Prime → ecadd p q = ecadd q p

/-- 42_point_arithmetic.md section 3 (what the spec derives from its rules): for a prime modulus `ecadd` of two lawful
points of one curve never ends `Internal`; for a composite one both exits are reached, at the rule's two examples modulo
4. -/
def Obligations.InternalIsUnreachableForPrimes : Prop :=
  (∀ p q : Point, p.Lawful → q.Lawful → p.a = q.a → p.b = q.b → p.a.prime.Prime → ∃ r, ecadd p q = .ok r) ∧
  ecadd ⟨⟨0, 4⟩, ⟨0, 4⟩, .onCurve ⟨0, 4⟩ ⟨0, 4⟩⟩ ⟨⟨0, 4⟩, ⟨0, 4⟩, .onCurve ⟨0, 4⟩ ⟨2, 4⟩⟩ = .error .internal ∧
  ecadd ⟨⟨0, 4⟩, ⟨0, 4⟩, .onCurve ⟨1, 4⟩ ⟨1, 4⟩⟩ ⟨⟨0, 4⟩, ⟨0, 4⟩, .onCurve ⟨1, 4⟩ ⟨1, 4⟩⟩ = .error .internal

/-- 43_scalar_multiplication.md section 1: scalar multiplication: its recursion from infinity, and every consequence the
spec derives from it there. -/
def Obligations.ScalarMultiplicationIsRepeatedAddition : Prop :=
  (∀ P : Point, ecmul P 0 = .ok ⟨P.a, P.b, .infinity⟩ ∧ ecmul P 1 = .ok P ∧ ecmul P 2 = ecadd P P) ∧
  (∀ (P R : Point) (k : Nat), ecmul P k = .ok R → ecmul P (k + 1) = ecadd R P) ∧
  (∀ (P : Point) (k : Nat), ecmul P k = .error .internal → ecmul P (k + 1) = .error .internal) ∧
  (∀ (P : Point) (k : Nat), P.c = .infinity → ecmul P k = .ok P) ∧
  (∀ (P : Point) (k : Nat) (st : Status), ecmul P k = .error st → st = .internal) ∧
  (∀ (P : Point) (k : Nat) (st : Status), P.Lawful → P.a.prime.Prime → ecmul P k ≠ .error st) ∧
  (∀ (P : Point) (x y : FE) (k : Nat), P.c = .onCurve x y → y.value = 0 →
    ecmul P k = .ok (if k % 2 = 1 then P else ⟨P.a, P.b, .infinity⟩))

/-! ### The commands: the result, every failure, and the frame (the next state is given whole) -/

/-- R130: the one word of STAT, and its effect in every state; a status fits every data word of at least 4 bits. -/
def Obligations.StatShowsStatusAndKeepsIt : Prop :=
  decode 0x01000000#32 = some .stat ∧
  (∀ w : CmdWord, w.extractLsb' 24 8 = 0x01#8 → w ≠ 0x01000000#32 → decode w = none) ∧
  ∀ s : State,
    exec .stat s = .next { s with
      port := .done ⟨.ok, false, #v[s.status.code.toNat % 2 ^ Config.W, 0, 0, 0, 0, 0, 0, 0]⟩ } ∧
    (∀ W : Nat, 4 ≤ W → s.status.code.toNat % 2 ^ W = s.status.code.toNat)

/-- R74. -/
def Obligations.FnewConstructsInRange : Prop :=
  ∀ (s : State) (c : Command) (fd : FReg), s.port = .busy c →
    decode (wordOf ⟨0x10#8, bitsOf fd, 0, 0, 0, 0, 0⟩) = some (.fnew fd) ∧
    (c.din0 < c.din1 → exec (.fnew fd) s = .next (s.wroteF fd ⟨c.din0, c.din1⟩)) ∧
    (c.din1 ≤ c.din0 → exec (.fnew fd) s = .next (s.failed .outOfRange))

/-- R75. -/
def Obligations.FaddAddsInTheField : Prop :=
  ∀ (s : State) (fd fa fb : FReg),
    decode (wordOf ⟨0x11#8, bitsOf fd, bitsOf fa, bitsOf fb, 0, 0, 0⟩) = some (.fadd fd fa fb) ∧
    (∀ a b, s.f[fa] = .full a → s.f[fb] = .full b → a.prime = b.prime →
      exec (.fadd fd fa fb) s = .next (s.wroteF fd ⟨(a.value + b.value) % a.prime, a.prime⟩)) ∧
    (∀ a b, s.f[fa] = .full a → s.f[fb] = .full b → a.prime ≠ b.prime →
      exec (.fadd fd fa fb) s = .next (s.failed .fieldMismatch)) ∧
    (s.f[fa] = .empty ∨ s.f[fb] = .empty → exec (.fadd fd fa fb) s = .next (s.failed .emptyRegister))

/-- R76. -/
def Obligations.FsubSubtractsInTheField : Prop :=
  ∀ (s : State) (fd fa fb : FReg),
    decode (wordOf ⟨0x12#8, bitsOf fd, bitsOf fa, bitsOf fb, 0, 0, 0⟩) = some (.fsub fd fa fb) ∧
    (∀ a b, s.f[fa] = .full a → s.f[fb] = .full b → a.prime = b.prime →
      exec (.fsub fd fa fb) s = .next (s.wroteF fd
        ⟨if b.value ≤ a.value then a.value - b.value else a.prime - (b.value - a.value), a.prime⟩)) ∧
    (∀ a b, s.f[fa] = .full a → s.f[fb] = .full b → a.prime ≠ b.prime →
      exec (.fsub fd fa fb) s = .next (s.failed .fieldMismatch)) ∧
    (s.f[fa] = .empty ∨ s.f[fb] = .empty → exec (.fsub fd fa fb) s = .next (s.failed .emptyRegister))

/-- R77. -/
def Obligations.FmulMultipliesInTheField : Prop :=
  ∀ (s : State) (fd fa fb : FReg),
    decode (wordOf ⟨0x13#8, bitsOf fd, bitsOf fa, bitsOf fb, 0, 0, 0⟩) = some (.fmul fd fa fb) ∧
    (∀ a b, s.f[fa] = .full a → s.f[fb] = .full b → a.prime = b.prime →
      exec (.fmul fd fa fb) s = .next (s.wroteF fd ⟨(a.value * b.value) % a.prime, a.prime⟩)) ∧
    (∀ a b, s.f[fa] = .full a → s.f[fb] = .full b → a.prime ≠ b.prime →
      exec (.fmul fd fa fb) s = .next (s.failed .fieldMismatch)) ∧
    (s.f[fa] = .empty ∨ s.f[fb] = .empty → exec (.fmul fd fa fb) s = .next (s.failed .emptyRegister))

/-- R78. -/
def Obligations.FeqComparesValueAndPrime : Prop :=
  ∀ (s : State) (fa fb : FReg),
    decode (wordOf ⟨0x17#8, 0, bitsOf fa, bitsOf fb, 0, 0, 0⟩) = some (.feq fa fb) ∧
    (∀ a b, s.f[fa] = .full a → s.f[fb] = .full b →
      exec (.feq fa fb) s = .next (s.showed (decide (a = b)) #v[0, 0, 0, 0, 0, 0, 0, 0])) ∧
    (s.f[fa] = .empty ∨ s.f[fb] = .empty → exec (.feq fa fb) s = .next (s.failed .emptyRegister))

/-- R79. -/
def Obligations.FgetReadsTheElementOut : Prop :=
  ∀ (s : State) (fa : FReg),
    decode (wordOf ⟨0x18#8, 0, bitsOf fa, 0, 0, 0, 0⟩) = some (.fget fa) ∧
    (∀ a, s.f[fa] = .full a →
      exec (.fget fa) s = .next (s.showed false #v[a.value, a.prime, 0, 0, 0, 0, 0, 0])) ∧
    (s.f[fa] = .empty → exec (.fget fa) s = .next (s.failed .emptyRegister))

/-- R93. -/
def Obligations.FpowRaisesToTheDataInput : Prop :=
  ∀ (s : State) (c : Command) (fd fa : FReg), s.port = .busy c →
    decode (wordOf ⟨0x14#8, bitsOf fd, bitsOf fa, 0, 0, 0, 0⟩) = some (.fpow fd fa) ∧
    (∀ a, s.f[fa] = .full a →
      exec (.fpow fd fa) s = .next (s.wroteF fd ⟨(a.value ^ c.din0) % a.prime, a.prime⟩)) ∧
    (s.f[fa] = .empty → exec (.fpow fd fa) s = .next (s.failed .emptyRegister))

/-- R94. -/
def Obligations.FinvIsTheFermatPower : Prop :=
  ∀ (s : State) (fd fb : FReg),
    decode (wordOf ⟨0x15#8, bitsOf fd, bitsOf fb, 0, 0, 0, 0⟩) = some (.finv fd fb) ∧
    (∀ b, s.f[fb] = .full b → b.value ≠ 0 →
      exec (.finv fd fb) s = .next (s.wroteF fd ⟨(b.value ^ (b.prime - 2)) % b.prime, b.prime⟩)) ∧
    (∀ b, s.f[fb] = .full b → b.value = 0 → exec (.finv fd fb) s = .next (s.failed .divisionByZero)) ∧
    (s.f[fb] = .empty → exec (.finv fd fb) s = .next (s.failed .emptyRegister))

/-- R95. -/
def Obligations.FdivMultipliesByTheFermatInverse : Prop :=
  ∀ (s : State) (fd fa fb : FReg),
    decode (wordOf ⟨0x16#8, bitsOf fd, bitsOf fa, bitsOf fb, 0, 0, 0⟩) = some (.fdiv fd fa fb) ∧
    (∀ a b, s.f[fa] = .full a → s.f[fb] = .full b → a.prime = b.prime → b.value ≠ 0 →
      exec (.fdiv fd fa fb) s = .next (s.wroteF fd
        ⟨(a.value * ((b.value ^ (a.prime - 2)) % a.prime)) % a.prime, a.prime⟩)) ∧
    (∀ a b, s.f[fa] = .full a → s.f[fb] = .full b → a.prime ≠ b.prime →
      exec (.fdiv fd fa fb) s = .next (s.failed .fieldMismatch)) ∧
    (∀ a b, s.f[fa] = .full a → s.f[fb] = .full b → a.prime = b.prime → b.value = 0 →
      exec (.fdiv fd fa fb) s = .next (s.failed .divisionByZero)) ∧
    (s.f[fa] = .empty ∨ s.f[fb] = .empty → exec (.fdiv fd fa fb) s = .next (s.failed .emptyRegister))

/-- R103, all four forms: the infinity, the lone coordinate, the concrete point, and every failure in the rule's order. -/
def Obligations.PnewConstructsPoints : Prop :=
  ∀ (s : State) (pd : PReg) (fa fb fx fy : FReg),
    decode (wordOf ⟨0x20#8, bitsOf pd, bitsOf fa, bitsOf fb, 0, 0, 0b0000#4⟩) = some (.pnewN pd fa fb) ∧
    decode (wordOf ⟨0x20#8, bitsOf pd, bitsOf fa, bitsOf fb, 0, bitsOf fy, 0b0001#4⟩) = some (.pnewY pd fa fb fy) ∧
    decode (wordOf ⟨0x20#8, bitsOf pd, bitsOf fa, bitsOf fb, bitsOf fx, 0, 0b0010#4⟩) = some (.pnewX pd fa fb fx) ∧
    decode (wordOf ⟨0x20#8, bitsOf pd, bitsOf fa, bitsOf fb, bitsOf fx, bitsOf fy, 0b0011#4⟩) =
      some (.pnewXY pd fa fb fx fy) ∧
    (∀ a b, s.f[fa] = .full a → s.f[fb] = .full b →
      exec (.pnewN pd fa fb) s = .next (s.wrotePT pd ⟨a, b, .infinity⟩)) ∧
    (s.f[fa] = .empty ∨ s.f[fb] = .empty → exec (.pnewN pd fa fb) s = .next (s.failed .emptyRegister)) ∧
    (s.f[fa] ≠ .empty → s.f[fb] ≠ .empty → s.f[fx] ≠ .empty →
      exec (.pnewX pd fa fb fx) s = .next (s.failed .invalidInfinity)) ∧
    (s.f[fa] = .empty ∨ s.f[fb] = .empty ∨ s.f[fx] = .empty →
      exec (.pnewX pd fa fb fx) s = .next (s.failed .emptyRegister)) ∧
    (s.f[fa] ≠ .empty → s.f[fb] ≠ .empty → s.f[fy] ≠ .empty →
      exec (.pnewY pd fa fb fy) s = .next (s.failed .invalidInfinity)) ∧
    (s.f[fa] = .empty ∨ s.f[fb] = .empty ∨ s.f[fy] = .empty →
      exec (.pnewY pd fa fb fy) s = .next (s.failed .emptyRegister)) ∧
    (∀ a b x y, s.f[fa] = .full a → s.f[fb] = .full b → s.f[fx] = .full x → s.f[fy] = .full y →
      (a.prime = b.prime ∧ b.prime = x.prime ∧ x.prime = y.prime →
        oncurve a.value b.value x.value y.value a.prime = true →
        exec (.pnewXY pd fa fb fx fy) s = .next (s.wrotePT pd ⟨a, b, .onCurve x y⟩)) ∧
      (a.prime = b.prime ∧ b.prime = x.prime ∧ x.prime = y.prime →
        oncurve a.value b.value x.value y.value a.prime = false →
        exec (.pnewXY pd fa fb fx fy) s = .next (s.failed .notOnCurve)) ∧
      (¬(a.prime = b.prime ∧ b.prime = x.prime ∧ x.prime = y.prime) →
        exec (.pnewXY pd fa fb fx fy) s = .next (s.failed .fieldMismatch))) ∧
    (s.f[fa] = .empty ∨ s.f[fb] = .empty ∨ s.f[fx] = .empty ∨ s.f[fy] = .empty →
      exec (.pnewXY pd fa fb fx fy) s = .next (s.failed .emptyRegister))

/-- R104; `ecadd` is R102's (its cases are stated above). -/
def Obligations.PaddAddsPoints : Prop :=
  ∀ (s : State) (pd pa pb : PReg),
    decode (wordOf ⟨0x21#8, bitsOf pd, bitsOf pa, bitsOf pb, 0, 0, 0⟩) = some (.padd pd pa pb) ∧
    (∀ p q r, s.pt[pa] = .full p → s.pt[pb] = .full q → ecadd p q = .ok r →
      exec (.padd pd pa pb) s = .next (s.wrotePT pd r)) ∧
    (∀ p q st, s.pt[pa] = .full p → s.pt[pb] = .full q → ecadd p q = .error st →
      exec (.padd pd pa pb) s = .next (s.failed st) ∧ (st = .fieldMismatch ∨ st = .internal)) ∧
    (∀ p q, s.pt[pa] = .full p → s.pt[pb] = .full q → ¬(p.a = q.a ∧ p.b = q.b) →
      exec (.padd pd pa pb) s = .next (s.failed .fieldMismatch)) ∧
    (∀ p q, s.pt[pa] = .full p → s.pt[pb] = .full q → p.Lawful → q.Lawful → p.a.prime.Prime →
      ecadd p q ≠ .error .internal) ∧
    (s.pt[pa] = .empty ∨ s.pt[pb] = .empty → exec (.padd pd pa pb) s = .next (s.failed .emptyRegister))

/-- 42_point_arithmetic.md sections 2 and 3: over a prime modulus PADD of two points of one curve always completes, with a
point of that curve. -/
def Obligations.PaddCompletesForPrimes : Prop :=
  ∀ (s : State) (pd pa pb : PReg) (p q : Point),
    s.pt[pa] = .full p → s.pt[pb] = .full q → p.Lawful → q.Lawful → p.a = q.a → p.b = q.b → p.a.prime.Prime →
    ∃ r : Point, r.Lawful ∧ r.a = p.a ∧ r.b = p.b ∧ ecadd p q = .ok r ∧
      exec (.padd pd pa pb) s = .next (s.wrotePT pd r)

/-- R105. -/
def Obligations.PeqComparesPoints : Prop :=
  ∀ (s : State) (pa pb : PReg),
    decode (wordOf ⟨0x23#8, 0, bitsOf pa, bitsOf pb, 0, 0, 0⟩) = some (.peq pa pb) ∧
    (∀ p q, s.pt[pa] = .full p → s.pt[pb] = .full q →
      exec (.peq pa pb) s = .next (s.showed (decide (p = q)) #v[0, 0, 0, 0, 0, 0, 0, 0])) ∧
    (s.pt[pa] = .empty ∨ s.pt[pb] = .empty → exec (.peq pa pb) s = .next (s.failed .emptyRegister))

/-- R106. -/
def Obligations.PgetReadsThePointOut : Prop :=
  ∀ (s : State) (pa : PReg),
    decode (wordOf ⟨0x24#8, 0, bitsOf pa, 0, 0, 0, 0⟩) = some (.pget pa) ∧
    (∀ a b, s.pt[pa] = .full ⟨a, b, .infinity⟩ →
      exec (.pget pa) s = .next (s.showed true #v[a.value, a.prime, b.value, b.prime, 0, 0, 0, 0])) ∧
    (∀ a b x y, s.pt[pa] = .full ⟨a, b, .onCurve x y⟩ →
      exec (.pget pa) s =
        .next (s.showed false #v[a.value, a.prime, b.value, b.prime, x.value, x.prime, y.value, y.prime])) ∧
    (s.pt[pa] = .empty → exec (.pget pa) s = .next (s.failed .emptyRegister))

/-- R121; `ecmul` is R120's (stated above). When `Internal` comes out, the destination keeps what it held. -/
def Obligations.PmulMultipliesByTheDataInput : Prop :=
  ∀ (s : State) (c : Command) (pd pa : PReg), s.port = .busy c →
    decode (wordOf ⟨0x22#8, bitsOf pd, bitsOf pa, 0, 0, 0, 0⟩) = some (.pmul pd pa) ∧
    (∀ p r, s.pt[pa] = .full p → ecmul p c.din0 = .ok r → exec (.pmul pd pa) s = .next (s.wrotePT pd r)) ∧
    (∀ p st, s.pt[pa] = .full p → ecmul p c.din0 = .error st →
      exec (.pmul pd pa) s = .next (s.failed st) ∧ st = .internal) ∧
    (∀ p, s.pt[pa] = .full p → p.Lawful → p.a.prime.Prime →
      ∃ r, ecmul p c.din0 = .ok r ∧ exec (.pmul pd pa) s = .next (s.wrotePT pd r)) ∧
    (s.pt[pa] = .empty → exec (.pmul pd pa) s = .next (s.failed .emptyRegister))

/-! ### Rules about every command -/

/-- 10_state.md sections 1, 2, 3 and 5, the frame of every instruction, over every field of the state: a register other
than its one destination is as before; `STATUS` is as before for STAT and takes the status of the response for every
other instruction; the port presents a response; the host's coming edges and the collected responses (log entries 4 and
5) are as before. -/
def Obligations.OnlyTheDestinationIsWritten : Prop :=
  ∀ (i : Instr) (s : State), ∃ (t : State) (r : Response), exec i s = .next t ∧ t.port = .done r ∧
    (∀ j : FReg, i.destF ≠ some j → t.f[j] = s.f[j]) ∧
    (∀ j : PReg, i.destPT ≠ some j → t.pt[j] = s.pt[j]) ∧
    (i = .stat → t.status = s.status) ∧ (i ≠ .stat → t.status = r.status) ∧
    t.inputs = s.inputs ∧ t.collected = s.collected

/-- R143: a command, legal or not, that answers a status other than `OK` leaves the whole state as it was but for
`STATUS` (and answers zeros): no register of either file is written. -/
def Obligations.FailuresArePrecise : Prop :=
  ∀ (s t : State) (c : Command) (r : Response), s.port = .busy c → s.edge.rst = false →
    step s = .next t → t.port = .done r → r.status ≠ .ok → t = s.advance.failed r.status

/-- R144: a command that raises `S` sets `STATUS` to `S`, answers `(S, 0, zeros)` and keeps both register files; a command
that ends normally sets `STATUS` to `OK`; STAT leaves `STATUS` alone and answers `OK`. -/
def Obligations.StatusFollowsTheResponse : Prop :=
  ∀ (s t : State) (c : Command) (r : Response), s.port = .busy c → s.edge.rst = false →
    step s = .next t → t.port = .done r →
    (r.status ≠ .ok → t.status = r.status ∧ r.flag = false ∧ r.dout = #v[0, 0, 0, 0, 0, 0, 0, 0] ∧
      t.f = s.f ∧ t.pt = s.pt) ∧
    (decode c.word ≠ some .stat → t.status = r.status) ∧
    (decode c.word = some .stat → t.status = s.status ∧ r.status = .ok)

/-- 60_exceptions.md section 1: a status not listed for a command cannot come from it. -/
def Obligations.OnlyListedStatusesAreAnswered : Prop :=
  ∀ (i : Instr) (s t : State) (r : Response), exec i s = .next t → t.port = .done r → r.status ∈ i.statuses

/-- 60_exceptions.md section 2: the first condition in the rule's order is the one reported: an illegal word, whatever the
registers hold; an empty source register, before every other check; then the command's own checks, in the order of its rule.
The model's choices, in the clause about a step: that the very next edge ends an illegal word (log entry 3) and that it takes
one element of `inputs` and leaves `collected` (log entries 4, 5). -/
def Obligations.ChecksComeInTheirOrder : Prop :=
  (∀ (s : State) (c : Command), s.port = .busy c → s.edge.rst = false → decode c.word = none →
    step s = .next (s.advance.failed .illegalCommand)) ∧
  (∀ (i : Instr) (s : State),
    ((∃ j ∈ i.sourcesF, s.f[j] = .empty) ∨ (∃ j ∈ i.sourcesPT, s.pt[j] = .empty)) →
    exec i s = .next (s.failed .emptyRegister)) ∧
  (∀ (s : State) (fd fa fb : FReg) (a b : FE), s.f[fa] = .full a → s.f[fb] = .full b → a.prime ≠ b.prime →
    b.value = 0 → exec (.fdiv fd fa fb) s = .next (s.failed .fieldMismatch)) ∧
  (∀ (s : State) (pd : PReg) (fa fb fc : FReg) (a b c : FE), s.f[fa] = .full a → s.f[fb] = .full b →
    s.f[fc] = .full c → ¬(a.prime = b.prime ∧ b.prime = c.prime) →
    exec (.pnewX pd fa fb fc) s = .next (s.failed .invalidInfinity) ∧
    exec (.pnewY pd fa fb fc) s = .next (s.failed .invalidInfinity)) ∧
  (∀ (s : State) (pd : PReg) (fa fb fx fy : FReg) (a b x y : FE), s.f[fa] = .full a → s.f[fb] = .full b →
    s.f[fx] = .full x → s.f[fy] = .full y → ¬(a.prime = b.prime ∧ b.prime = x.prime ∧ x.prime = y.prime) →
    oncurve a.value b.value x.value y.value a.prime = false →
    exec (.pnewXY pd fa fb fx fy) s = .next (s.failed .fieldMismatch)) ∧
  (∀ (s : State) (pd pa pb : PReg) (p q : Point), s.pt[pa] = .full p → s.pt[pb] = .full q →
    ¬(p.a = q.a ∧ p.b = q.b) → exec (.padd pd pa pb) s = .next (s.failed .fieldMismatch))

/-- 30_encoding.md section 2: the fields a command's rule does not name are zero: `flag` outside FEQ, PEQ and PGET; the
data words after the first two of FGET, the first of STAT, all of the others' but PGET's; and everything when the status
is not 0. -/
def Obligations.UnnamedResponseFieldsAreZero : Prop :=
  ∀ (i : Instr) (s t : State) (r : Response), exec i s = .next t → t.port = .done r →
    (i.namesFlag = false → r.flag = false) ∧
    (∀ k : Fin 8, i.namesDout ≤ k.val → r.dout[k] = 0) ∧
    (r.status ≠ .ok → r.flag = false ∧ ∀ k : Fin 8, r.dout[k] = 0)

/-- 30_encoding.md section 1: a data input a command does not use changes neither the state nor the response. -/
def Obligations.UnusedDataInputsAreIgnored : Prop :=
  ∀ (i : Instr) (s : State) (w : CmdWord) (d0 d1 e0 e1 : Nat),
    (1 ≤ i.usesDin → d0 = e0) → (2 ≤ i.usesDin → d1 = e1) →
    exec i { s with port := .busy ⟨w, d0, d1⟩ } = exec i { s with port := .busy ⟨w, e0, e1⟩ }

/-- 20_memory.md section 2: FGET, PGET, FEQ, PEQ and STAT write no register, and repeated they answer the same. -/
def Obligations.ReadsHaveNoSideEffect : Prop :=
  ∀ (i : Instr) (s : State), i.destF = none → i.destPT = none → i.statuses.contains .ok = true →
    ∃ (t : State) (r : Response), exec i s = .next t ∧ t.port = .done r ∧ t.f = s.f ∧ t.pt = s.pt ∧
      (i = .stat → t.status = s.status) ∧ exec i t = .next t

/-! ### The machine: steps, port, reset, invariant -/

/-- R30: the state after reset (and, of 70_reset_and_hazards.md section 1, that the block is then idle). -/
def Obligations.ResetStateIsEmpty : Prop :=
  (∀ j : FReg, State.reset.f[j] = .empty) ∧ (∀ j : PReg, State.reset.pt[j] = .empty) ∧
  State.reset.status = .ok ∧ State.reset.status.code = 0#4 ∧ State.reset.port = .idle

/-- R140: the nine codes, each status its own. -/
def Obligations.StatusCodes : Prop :=
  Status.ok.code = 0#4 ∧ Status.outOfRange.code = 1#4 ∧ Status.fieldMismatch.code = 2#4 ∧
  Status.divisionByZero.code = 3#4 ∧ Status.invalidInfinity.code = 4#4 ∧ Status.notOnCurve.code = 5#4 ∧
  Status.internal.code = 6#4 ∧ Status.illegalCommand.code = 7#4 ∧ Status.emptyRegister.code = 8#4 ∧
  ∀ st : Status, st.code.toNat ≤ 8

/-- A step runs the decoded instruction: with a command in flight whose word decodes to `i`, and no reset at the coming
edge, the step is `exec i` of the state past that edge (the port's phases are log entry 3). -/
def Obligations.StepRunsTheDecodedInstruction : Prop :=
  ∀ (s : State) (c : Command) (i : Instr), s.port = .busy c → s.edge.rst = false → decode c.word = some i →
    step s = exec i s.advance

/-- 70_reset_and_hazards.md section 1: a clock edge with `rst = 1` puts the block in the reset state from wherever it
was, with no response given; while `rst = 1` no command is taken and no response presented; after it the block is ready.
Nothing else cancels a command: without `rst` it is answered, and its answer held until taken. (Log entry 5: the host's
own record of responses is not the block's. Log entry 3: the answer comes at the next edge.) -/
def Obligations.ResetAbandonsEverything : Prop :=
  (∀ s : State, s.edge.rst = true →
    s.cmdReady = false ∧ s.rspValid = false ∧
    ∃ t : State, step s = .next t ∧ (∀ j : FReg, t.f[j] = .empty) ∧ (∀ j : PReg, t.pt[j] = .empty) ∧
      t.status = .ok ∧ t.port = .idle ∧ t.inputs = s.inputs.tail ∧ t.collected = s.collected ∧
      (t.edge.rst = false → t.cmdReady = true)) ∧
  (∀ (s : State) (c : Command), s.port = .busy c → s.edge.rst = false →
    ∃ (t : State) (r : Response), step s = .next t ∧ t.port = .done r) ∧
  (∀ (s : State) (r : Response), s.port = .done r → s.edge.rst = false → s.edge.rspReady = false →
    ∃ t : State, step s = .next t ∧ t.port = .done r)

/-- 70_reset_and_hazards.md section 3: the block holds at most one command: `cmd_ready` and `rsp_valid` exclude each
other; from the edge after a command is taken until its response has been taken `cmd_ready` is 0; a response is held
unchanged until taken. Two clauses are the model's choice: that a command in flight is answered at the very next edge
(log entry 3), and that a response taken is added to the host's record `collected` (log entry 5). -/
def Obligations.OneCommandAtATime : Prop :=
  (∀ s : State, ¬(s.cmdReady = true ∧ s.rspValid = true)) ∧
  (∀ s : State, s.cmdReady = true → s.edge.cmdValid = true →
    step s = .next { s.advance with port := .busy s.edge.command }) ∧
  (∀ s : State, s.cmdReady = true → s.edge.cmdValid = false → step s = .next s.advance) ∧
  (∀ (s : State) (c : Command), s.port = .busy c → s.cmdReady = false ∧ s.rspValid = false ∧
    (s.edge.rst = false → ∃ (t : State) (r : Response), step s = .next t ∧ t.port = .done r)) ∧
  (∀ (s : State) (r : Response), s.port = .done r → s.cmdReady = false ∧
    (s.edge.rst = false → s.rspOut = some r ∧
      (s.edge.rspReady = false → step s = .next s.advance) ∧
      (s.edge.rspReady = true →
        step s = .next { s.advance with port := .idle, collected := s.collected ++ [r] })))

/-- 00_scope.md section 5 and 10_state.md section 6: what a command does depends on the architectural state and the command
alone, and it always gives a response. The model's choices: that the response stands after the very next edge (log entry 3)
and what becomes of the model's own fields `inputs` and `collected` (log entries 4 and 5). -/
def Obligations.CommandIsAFunctionOfStateAndCommand : Prop :=
  ∀ (s : State) (c : Command), s.port = .busy c → s.edge.rst = false →
    ∃ (a : Arch) (r : Response), answer s.toArch c = some (a, r) ∧
      step s = .next { a with port := .done r, inputs := s.inputs.tail, collected := s.collected }

/-- 20_memory.md section 3 and 70_reset_and_hazards.md sections 3 and 5: for every plan of a host that never resets,
whatever delays it lets pass, the block ends in the state of R8's function folded over the commands, and the host has
collected one response for each command, in order. The number of edges is the model's (log entry 3),
and so are the fields `inputs` and `collected` (log entries 4 and 5). -/
def Obligations.AnswersComeInOrder : Prop :=
  ∀ (plan : List Turn) (s : State) (rest : List HostEdge), s.port = .idle →
    ∃ (a : Arch) (rs : List Response),
      answers s.toArch (plan.map Turn.command) = some (a, rs) ∧ rs.length = plan.length ∧
      steps (planEdges plan).length { s with inputs := planEdges plan ++ rest } =
        some { a with port := .idle, inputs := rest, collected := s.collected ++ rs }

/-- 70_reset_and_hazards.md section 4, of steps: every step gives a next state: no edge, no word and no data stops the
block. -/
def Obligations.EveryStepGivesANextState : Prop :=
  ∀ s : State, ∃ t : State, step s = .next t

/-- 10_state.md section 5: the reset state satisfies the invariants. -/
def Obligations.ResetSatisfiesTheInvariants : Prop := State.reset.Inv

/-- 10_state.md section 5 (with the widths of R20, R50 and R53): every step keeps the invariants. -/
def Obligations.StepKeepsTheInvariants : Prop :=
  ∀ s t : State, s.Inv → step s = .next t → t.Inv
end

