-- ==== Sys2Proof/Laws/Decode.lean ====
section
/-! SUPPORT. The command word and its fields: packing and unpacking are inverse, and a row's mask is read field by field. -/

namespace Sys2Proof

/-- Unpacking what was packed. -/
@[simp] theorem fieldsOf_wordOf (f : Fields) : fieldsOf (wordOf f) = f := by
  cases f
  simp only [fieldsOf, wordOf, Fields.mk.injEq]
  refine ⟨?_, ?_, ?_, ?_, ?_, ?_, ?_⟩ <;>
    (apply BitVec.eq_of_getLsbD_eq
     intro i hi
     simp only [BitVec.getLsbD_extractLsb', BitVec.getLsbD_append, hi, decide_true, Bool.true_and]
     interval_cases i <;> rfl)

/-- Packing what was unpacked. -/
@[simp] theorem wordOf_fieldsOf (w : CmdWord) : wordOf (fieldsOf w) = w := by
  apply BitVec.eq_of_getLsbD_eq
  intro i hi
  simp only [fieldsOf, wordOf, BitVec.getLsbD_append, BitVec.getLsbD_extractLsb']
  interval_cases i <;> rfl

/-- A word is known by its fields. -/
theorem fieldsOf_inj {v w : CmdWord} : fieldsOf v = fieldsOf w ↔ v = w :=
  ⟨fun h => by rw [← wordOf_fieldsOf v, h, wordOf_fieldsOf], fun h => by rw [h]⟩

@[simp] theorem regOf_bitsOf (r : Fin 16) : regOf (bitsOf r) = r := rfl

@[simp] theorem bitsOf_regOf (b : BitVec 4) : bitsOf (regOf b) = b := rfl

/-- The fields of two words taken together bit by bit. -/
def Fields.and (f g : Fields) : Fields :=
  ⟨f.opcode &&& g.opcode, f.rd &&& g.rd, f.rs1 &&& g.rs1, f.rs2 &&& g.rs2, f.rs3 &&& g.rs3, f.rs4 &&& g.rs4,
    f.cp &&& g.cp⟩

/-- The fields of a masked word are the masked fields. -/
theorem fieldsOf_and (v w : CmdWord) : fieldsOf (v &&& w) = (fieldsOf v).and (fieldsOf w) := by
  simp [fieldsOf, Fields.and, BitVec.extractLsb'_and]

/-- R55: a row accepts a word exactly when the masked fields are the row's. -/
theorem Row.matches_iff (r : Row) (w : CmdWord) :
    r.matches w = true ↔ (fieldsOf w).and (fieldsOf r.mask) = fieldsOf r.pattern := by
  rw [Row.matches, beq_iff_eq, ← fieldsOf_inj, fieldsOf_and]

/-- The same as an equation, to rewrite `decode` with. -/
theorem Row.matches_eq (r : Row) (w : CmdWord) :
    r.matches w = decide ((fieldsOf w).and (fieldsOf r.mask) = fieldsOf r.pattern) := by
  rw [Bool.eq_iff_iff, Row.matches_iff, decide_eq_true_iff]

/-- The decoder on a packed word, field by field. -/
theorem decode_wordOf (f : Fields) :
    decode (wordOf f) =
      (rows.find? fun r => decide (f.and (fieldsOf r.mask) = fieldsOf r.pattern)).map fun r => r.build f := by
  simp only [decode, Row.matches_eq, fieldsOf_wordOf]

end Sys2Proof
end

