-- ==== Sys2Proof/Laws/State.lean ====
section
/-! SUPPORT. One lemma for each field of `State` after each update, true by `rfl`, so that no later proof unfolds an update. -/

namespace Sys2Proof.Machine

@[simp] theorem State.write_none_f (s : State) :
    (s.write .none).f = s.f := rfl

@[simp] theorem State.write_none_pt (s : State) :
    (s.write .none).pt = s.pt := rfl

@[simp] theorem State.write_none_status (s : State) :
    (s.write .none).status = s.status := rfl

@[simp] theorem State.write_none_port (s : State) :
    (s.write .none).port = s.port := rfl

@[simp] theorem State.write_none_inputs (s : State) :
    (s.write .none).inputs = s.inputs := rfl

@[simp] theorem State.write_none_collected (s : State) :
    (s.write .none).collected = s.collected := rfl

@[simp] theorem State.write_toF_f (s : State) (rd : FReg) (v : FE) :
    (s.write (.toF rd v)).f = s.f.set rd (.full v) := rfl

@[simp] theorem State.write_toF_pt (s : State) (rd : FReg) (v : FE) :
    (s.write (.toF rd v)).pt = s.pt := rfl

@[simp] theorem State.write_toF_status (s : State) (rd : FReg) (v : FE) :
    (s.write (.toF rd v)).status = s.status := rfl

@[simp] theorem State.write_toF_port (s : State) (rd : FReg) (v : FE) :
    (s.write (.toF rd v)).port = s.port := rfl

@[simp] theorem State.write_toF_inputs (s : State) (rd : FReg) (v : FE) :
    (s.write (.toF rd v)).inputs = s.inputs := rfl

@[simp] theorem State.write_toF_collected (s : State) (rd : FReg) (v : FE) :
    (s.write (.toF rd v)).collected = s.collected := rfl

@[simp] theorem State.write_toPT_f (s : State) (rd : PReg) (v : Point) :
    (s.write (.toPT rd v)).f = s.f := rfl

@[simp] theorem State.write_toPT_pt (s : State) (rd : PReg) (v : Point) :
    (s.write (.toPT rd v)).pt = s.pt.set rd (.full v) := rfl

@[simp] theorem State.write_toPT_status (s : State) (rd : PReg) (v : Point) :
    (s.write (.toPT rd v)).status = s.status := rfl

@[simp] theorem State.write_toPT_port (s : State) (rd : PReg) (v : Point) :
    (s.write (.toPT rd v)).port = s.port := rfl

@[simp] theorem State.write_toPT_inputs (s : State) (rd : PReg) (v : Point) :
    (s.write (.toPT rd v)).inputs = s.inputs := rfl

@[simp] theorem State.write_toPT_collected (s : State) (rd : PReg) (v : Point) :
    (s.write (.toPT rd v)).collected = s.collected := rfl

@[simp] theorem State.respond_f (s : State) (r : Response) :
    (s.respond r).f = s.f := rfl

@[simp] theorem State.respond_pt (s : State) (r : Response) :
    (s.respond r).pt = s.pt := rfl

@[simp] theorem State.respond_status (s : State) (r : Response) :
    (s.respond r).status = s.status := rfl

@[simp] theorem State.respond_port (s : State) (r : Response) :
    (s.respond r).port = .done r := rfl

@[simp] theorem State.respond_inputs (s : State) (r : Response) :
    (s.respond r).inputs = s.inputs := rfl

@[simp] theorem State.respond_collected (s : State) (r : Response) :
    (s.respond r).collected = s.collected := rfl

@[simp] theorem State.raise_f (s : State) (st : Status) :
    (s.raise st).f = s.f := rfl

@[simp] theorem State.raise_pt (s : State) (st : Status) :
    (s.raise st).pt = s.pt := rfl

@[simp] theorem State.raise_status (s : State) (st : Status) :
    (s.raise st).status = st := rfl

@[simp] theorem State.raise_port (s : State) (st : Status) :
    (s.raise st).port = .done ⟨st, false, Dout.zero⟩ := rfl

@[simp] theorem State.raise_inputs (s : State) (st : Status) :
    (s.raise st).inputs = s.inputs := rfl

@[simp] theorem State.raise_collected (s : State) (st : Status) :
    (s.raise st).collected = s.collected := rfl

@[simp] theorem State.finish_f (s : State) (flag : Bool) (dout : Dout) :
    (s.finish flag dout).f = s.f := rfl

@[simp] theorem State.finish_pt (s : State) (flag : Bool) (dout : Dout) :
    (s.finish flag dout).pt = s.pt := rfl

@[simp] theorem State.finish_status (s : State) (flag : Bool) (dout : Dout) :
    (s.finish flag dout).status = .ok := rfl

@[simp] theorem State.finish_port (s : State) (flag : Bool) (dout : Dout) :
    (s.finish flag dout).port = .done ⟨.ok, flag, dout⟩ := rfl

@[simp] theorem State.finish_inputs (s : State) (flag : Bool) (dout : Dout) :
    (s.finish flag dout).inputs = s.inputs := rfl

@[simp] theorem State.finish_collected (s : State) (flag : Bool) (dout : Dout) :
    (s.finish flag dout).collected = s.collected := rfl

@[simp] theorem State.advance_f (s : State) :
    s.advance.f = s.f := rfl

@[simp] theorem State.advance_pt (s : State) :
    s.advance.pt = s.pt := rfl

@[simp] theorem State.advance_status (s : State) :
    s.advance.status = s.status := rfl

@[simp] theorem State.advance_port (s : State) :
    s.advance.port = s.port := rfl

@[simp] theorem State.advance_inputs (s : State) :
    s.advance.inputs = s.inputs.tail := rfl

@[simp] theorem State.advance_collected (s : State) :
    s.advance.collected = s.collected := rfl

@[simp] theorem State.applyReset_f (s : State) :
    s.applyReset.f = Vector.replicate 16 .empty := rfl

@[simp] theorem State.applyReset_pt (s : State) :
    s.applyReset.pt = Vector.replicate 16 .empty := rfl

@[simp] theorem State.applyReset_status (s : State) :
    s.applyReset.status = .ok := rfl

@[simp] theorem State.applyReset_port (s : State) :
    s.applyReset.port = .idle := rfl

@[simp] theorem State.applyReset_inputs (s : State) :
    s.applyReset.inputs = s.inputs := rfl

@[simp] theorem State.applyReset_collected (s : State) :
    s.applyReset.collected = s.collected := rfl

@[simp] theorem State.toArch_f (s : State) : s.toArch.f = s.f := rfl

@[simp] theorem State.toArch_pt (s : State) : s.toArch.pt = s.pt := rfl

@[simp] theorem State.toArch_status (s : State) : s.toArch.status = s.status := rfl

@[simp] theorem State.reset_f : State.reset.f = Vector.replicate 16 .empty := rfl

@[simp] theorem State.reset_pt : State.reset.pt = Vector.replicate 16 .empty := rfl

@[simp] theorem State.reset_status : State.reset.status = .ok := rfl

@[simp] theorem State.reset_port : State.reset.port = .idle := rfl

@[simp] theorem State.reset_inputs : State.reset.inputs = [] := rfl

@[simp] theorem State.reset_collected : State.reset.collected = [] := rfl

end Sys2Proof.Machine
end

