-- ==== Sys2Proof/Laws/Ops.lean ====
section
/-! SUPPORT. One law for each shared operation: what reading an operand gives, what a check gives, and everything `commit`
can do. -/

namespace Sys2Proof.Machine

/-- Reading a full register. -/
theorem State.readF_full {s : State} {r : FReg} {e : FE} (h : s.f[r] = .full e) : s.readF r = .ok e := by
  simp [State.readF, h, Slot.read]

/-- Reading an empty register (R23). -/
theorem State.readF_empty {s : State} {r : FReg} (h : s.f[r] = .empty) : s.readF r = .error .emptyRegister := by
  simp [State.readF, h, Slot.read]

/-- Reading a full point register. -/
theorem State.readPT_full {s : State} {r : PReg} {p : Point} (h : s.pt[r] = .full p) : s.readPT r = .ok p := by
  simp [State.readPT, h, Slot.read]

/-- Reading an empty point register (R23). -/
theorem State.readPT_empty {s : State} {r : PReg} (h : s.pt[r] = .empty) : s.readPT r = .error .emptyRegister := by
  simp [State.readPT, h, Slot.read]

/-- A read that succeeded found the register full. -/
theorem State.readF_eq_ok {s : State} {r : FReg} {e : FE} : s.readF r = .ok e ↔ s.f[r] = .full e := by
  unfold State.readF
  cases s.f[r] with
  | empty => simp [Slot.read]
  | full v => simp [Slot.read]

/-- A read that failed found the register empty. -/
theorem State.readF_eq_error {s : State} {r : FReg} {st : Status} :
    s.readF r = .error st ↔ s.f[r] = .empty ∧ st = .emptyRegister := by
  unfold State.readF
  cases s.f[r] with
  | empty => simp [Slot.read, eq_comm]
  | full v => simp [Slot.read]

/-- A read that succeeded found the point register full. -/
theorem State.readPT_eq_ok {s : State} {r : PReg} {p : Point} : s.readPT r = .ok p ↔ s.pt[r] = .full p := by
  unfold State.readPT
  cases s.pt[r] with
  | empty => simp [Slot.read]
  | full v => simp [Slot.read]

/-- A read that failed found the point register empty. -/
theorem State.readPT_eq_error {s : State} {r : PReg} {st : Status} :
    s.readPT r = .error st ↔ s.pt[r] = .empty ∧ st = .emptyRegister := by
  unfold State.readPT
  cases s.pt[r] with
  | empty => simp [Slot.read, eq_comm]
  | full v => simp [Slot.read]

/-- A read does not look at the port. -/
@[simp] theorem State.readF_withPort (s : State) (p : Port) (r : FReg) :
    State.readF { s with port := p } r = s.readF r := rfl

@[simp] theorem State.readPT_withPort (s : State) (p : Port) (r : PReg) :
    State.readPT { s with port := p } r = s.readPT r := rfl

/-- A slot is empty or holds a value. -/
theorem Slot.empty_or_full {α : Type} (x : Slot α) : x = .empty ∨ ∃ v, x = .full v := by
  cases x with
  | empty => exact .inl rfl
  | full v => exact .inr ⟨v, rfl⟩

/-- A read gives the value of a full register, or `emptyRegister` of an empty one. -/
theorem Slot.read_cases {α : Type} (x : Slot α) :
    (x = .empty ∧ x.read = .error .emptyRegister) ∨ ∃ v, x = .full v ∧ x.read = .ok v := by
  cases x with
  | empty => exact .inl ⟨rfl, rfl⟩
  | full v => exact .inr ⟨v, rfl, rfl⟩

@[simp] theorem require_true (st : Status) : require true st = .ok () := rfl

@[simp] theorem require_false (st : Status) : require false st = .error st := rfl

@[simp] theorem Except.ok_bind {α β : Type} (v : α) (k : α → Except Status β) :
    (Except.ok v : Except Status α) >>= k = k v := rfl

@[simp] theorem Except.error_bind {α β : Type} (st : Status) (k : α → Except Status β) :
    (Except.error st : Except Status α) >>= k = .error st := rfl

@[simp] theorem Except.pure_eq_ok {α : Type} (v : α) : (pure v : Except Status α) = .ok v := rfl

/-- Peels one step off a command's rule that succeeds. -/
theorem Except.bind_eq_ok {α β : Type} {x : Except Status α} {k : α → Except Status β} {v : β} :
    x >>= k = .ok v ↔ ∃ a, x = .ok a ∧ k a = .ok v := by
  cases x with
  | error st => simp
  | ok a => simp

/-- Peels one step off a command's rule that fails. -/
theorem Except.bind_eq_error {α β : Type} {x : Except Status α} {k : α → Except Status β} {st : Status} :
    x >>= k = .error st ↔ x = .error st ∨ ∃ a, x = .ok a ∧ k a = .error st := by
  cases x with
  | error st => simp
  | ok a => simp

/-- A check that goes on held. -/
theorem require_eq_ok {b : Bool} {st : Status} {u : Unit} : require b st = .ok u ↔ b = true := by
  cases b <;> simp

/-- A check that ends the command did not hold, and gave its own status. -/
theorem require_eq_error {b : Bool} {st st' : Status} : require b st = .error st' ↔ b = false ∧ st' = st := by
  cases b <;> simp [eq_comm]

@[simp] theorem State.commit_error (s : State) (st : Status) : s.commit (.error st) = s.raise st := rfl

@[simp] theorem State.commit_ok (s : State) (e : Effect) :
    s.commit (.ok e) = (s.write e.write).finish e.flag e.dout := rfl

/-- R143, R144: everything `commit` can do. -/
theorem State.commit_cases (s : State) (x : Except Status Effect) :
    (∃ st, x = .error st ∧ s.commit x = s.raise st) ∨
    (∃ e, x = .ok e ∧ s.commit x = (s.write e.write).finish e.flag e.dout) := by
  cases x with
  | error st => exact .inl ⟨st, rfl, rfl⟩
  | ok e => exact .inr ⟨e, rfl, rfl⟩

@[simp] theorem State.write_inputs (s : State) (w : Write) : (s.write w).inputs = s.inputs := by cases w <;> rfl

@[simp] theorem State.write_collected (s : State) (w : Write) : (s.write w).collected = s.collected := by cases w <;> rfl

@[simp] theorem State.write_port (s : State) (w : Write) : (s.write w).port = s.port := by cases w <;> rfl

@[simp] theorem State.write_status (s : State) (w : Write) : (s.write w).status = s.status := by cases w <;> rfl

/-- The host's side is no command's business. -/
@[simp] theorem State.commit_inputs (s : State) (x : Except Status Effect) : (s.commit x).inputs = s.inputs := by
  cases x <;> simp

@[simp] theorem State.commit_collected (s : State) (x : Except Status Effect) :
    (s.commit x).collected = s.collected := by
  cases x <;> simp

/-- What `commit` does to the port does not depend on what the port held. -/
@[simp] theorem State.commit_withPort (s : State) (p : Port) (x : Except Status Effect) :
    State.commit { s with port := p } x = s.commit x := by
  cases x with
  | error st => rfl
  | ok e =>
    cases e with
    | mk w flag dout => cases w <;> rfl

/-- A command presents one response, and `STATUS` takes its status (R144). -/
theorem State.commit_responds (s : State) (x : Except Status Effect) :
    ∃ r, (s.commit x).port = .done r ∧ (s.commit x).status = r.status := by
  cases x with
  | error st => exact ⟨_, rfl, rfl⟩
  | ok e => exact ⟨_, rfl, rfl⟩

@[simp] theorem State.din0_busy {s : State} {c : Command} (h : s.port = .busy c) : s.din0 = c.din0 := by
  simp [State.din0, h, Port.din]

@[simp] theorem State.din1_busy {s : State} {c : Command} (h : s.port = .busy c) : s.din1 = c.din1 := by
  simp [State.din1, h, Port.din]

end Sys2Proof.Machine
end

