-- ==== Sys2Proof/Laws/PerInstr.lean ====
section
/-! SUPPORT. Per instruction: the fields the encoder gives an instruction are a command's by the field rules of R54 and R56,
which know nothing of the encoder or of the masks. -/

namespace Sys2Proof.Laws.LegalFields

/-- The instruction's fields are legal. -/
def Statement (i : Instr) : Prop := i.fields.wf = true

/-- The shape of every case but PNEW's: unused fields are the literal 0. -/
theorem of_uses {f : Fields} {u : Uses} (hu : opcodeUses f.opcode = some u) (hp : f.isPnew = false)
    (h : (zeroUnlessUsed u.rd f.rd && zeroUnlessUsed u.rs1 f.rs1 && zeroUnlessUsed u.rs2 f.rs2) = true)
    (h3 : f.rs3 = 0) (h4 : f.rs4 = 0) (hc : f.cp = 0) : f.wf = true := by
  simp only [Fields.wf, hu, h, Fields.xp, Fields.yp, Fields.cpLegal, hp, h3, h4, hc]
  rfl

/-- PNEW's case: `rs3` and `rs4` follow `cp`. -/
theorem of_pnew {f : Fields} (ho : f.opcode = 0x20#8)
    (h : (zeroUnlessUsed (f.cp.getLsbD 1) f.rs3 && zeroUnlessUsed (f.cp.getLsbD 0) f.rs4 &&
      (!(f.cp.getLsbD 3) && !(f.cp.getLsbD 2))) = true) : f.wf = true := by
  simp only [Fields.wf, Fields.xp, Fields.yp, Fields.cpLegal, Fields.isPnew, ho, opcodeUses]
  simpa [zeroUnlessUsed, Bool.and_assoc] using h

theorem stat : Statement .stat := rfl

theorem fnew (fd : FReg) : Statement (.fnew fd) := of_uses rfl rfl rfl rfl rfl rfl

theorem fadd (fd fa fb : FReg) : Statement (.fadd fd fa fb) := of_uses rfl rfl rfl rfl rfl rfl

theorem fsub (fd fa fb : FReg) : Statement (.fsub fd fa fb) := of_uses rfl rfl rfl rfl rfl rfl

theorem fmul (fd fa fb : FReg) : Statement (.fmul fd fa fb) := of_uses rfl rfl rfl rfl rfl rfl

theorem fpow (fd fa : FReg) : Statement (.fpow fd fa) := of_uses rfl rfl rfl rfl rfl rfl

theorem finv (fd fb : FReg) : Statement (.finv fd fb) := of_uses rfl rfl rfl rfl rfl rfl

theorem fdiv (fd fa fb : FReg) : Statement (.fdiv fd fa fb) := of_uses rfl rfl rfl rfl rfl rfl

theorem feq (fa fb : FReg) : Statement (.feq fa fb) := of_uses rfl rfl rfl rfl rfl rfl

theorem fget (fa : FReg) : Statement (.fget fa) := of_uses rfl rfl rfl rfl rfl rfl

theorem pnewN (pd : PReg) (fa fb : FReg) : Statement (.pnewN pd fa fb) := of_pnew rfl (by simp [Instr.fields, zeroUnlessUsed])

theorem pnewY (pd : PReg) (fa fb fy : FReg) : Statement (.pnewY pd fa fb fy) := of_pnew rfl (by simp [Instr.fields, zeroUnlessUsed])

theorem pnewX (pd : PReg) (fa fb fx : FReg) : Statement (.pnewX pd fa fb fx) := of_pnew rfl (by simp [Instr.fields, zeroUnlessUsed])

theorem pnewXY (pd : PReg) (fa fb fx fy : FReg) : Statement (.pnewXY pd fa fb fx fy) := of_pnew rfl (by simp [Instr.fields, zeroUnlessUsed])

theorem padd (pd pa pb : PReg) : Statement (.padd pd pa pb) := of_uses rfl rfl rfl rfl rfl rfl

theorem pmul (pd pa : PReg) : Statement (.pmul pd pa) := of_uses rfl rfl rfl rfl rfl rfl

theorem peq (pa pb : PReg) : Statement (.peq pa pb) := of_uses rfl rfl rfl rfl rfl rfl

theorem pget (pa : PReg) : Statement (.pget pa) := of_uses rfl rfl rfl rfl rfl rfl

end Sys2Proof.Laws.LegalFields
end

