-- ==== Sys2Proof/Laws/Step.lean ====
section
/-! SUPPORT. What an instruction and a step can do, said once. -/

namespace Sys2Proof.Machine

/-- The computation an instruction other than STAT commits: its rule, from the operands to a status or an effect. STAT
commits nothing, and has an empty effect here. -/
def ruleOf (i : Instr) (s : State) : Except Status Effect :=
  match i with
  | .stat => .ok {}
  | .fnew fd => do
    require (s.din0 < s.din1) .outOfRange
    return { write := .toF fd ⟨s.din0, s.din1⟩ }
  | .fadd fd fa fb => binaryField modadd fd fa fb s
  | .fsub fd fa fb => binaryField modsub fd fa fb s
  | .fmul fd fa fb => binaryField modmul fd fa fb s
  | .fpow fd fa => do
    let a ← s.readF fa
    return { write := .toF fd ⟨modpow a.value s.din0 a.prime, a.prime⟩ }
  | .finv fd fb => do
    let b ← s.readF fb
    require (b.value != 0) .divisionByZero
    return { write := .toF fd ⟨modinv b.value b.prime, b.prime⟩ }
  | .fdiv fd fa fb => do
    let a ← s.readF fa
    let b ← s.readF fb
    require (a.prime == b.prime) .fieldMismatch
    require (b.value != 0) .divisionByZero
    return { write := .toF fd ⟨moddiv a.value b.value a.prime, a.prime⟩ }
  | .feq fa fb => do
    let a ← s.readF fa
    let b ← s.readF fb
    return { flag := feqFlag a b }
  | .fget fa => do
    let a ← s.readF fa
    return { dout := fgetDout a }
  | .pnewN pd fa fb => do
    let a ← s.readF fa
    let b ← s.readF fb
    return { write := .toPT pd ⟨a, b, .infinity⟩ }
  | .pnewY _ fa fb fy => loneCoordinate fa fb fy s
  | .pnewX _ fa fb fx => loneCoordinate fa fb fx s
  | .pnewXY pd fa fb fx fy => do
    let a ← s.readF fa
    let b ← s.readF fb
    let x ← s.readF fx
    let y ← s.readF fy
    require (onePrime a b x y) .fieldMismatch
    require (oncurve a.value b.value x.value y.value a.prime) .notOnCurve
    return { write := .toPT pd ⟨a, b, .onCurve x y⟩ }
  | .padd pd pa pb => do
    let p1 ← s.readPT pa
    let p2 ← s.readPT pb
    let r ← ecadd p1 p2
    return { write := .toPT pd r }
  | .pmul pd pa => do
    let p ← s.readPT pa
    let r ← ecmul p s.din0
    return { write := .toPT pd r }
  | .peq pa pb => do
    let p1 ← s.readPT pa
    let p2 ← s.readPT pb
    return { flag := peqFlag p1 p2 }
  | .pget pa => do
    let p ← s.readPT pa
    return { flag := pgetFlag p, dout := pgetDout p }

/-- Every instruction but STAT commits its rule. -/
theorem exec_eq_commit (i : Instr) (s : State) (h : i ≠ .stat) : exec i s = .next (s.commit (ruleOf i s)) := by
  cases i with
  | stat => exact absurd rfl h
  | fnew => rfl
  | fadd => rfl
  | fsub => rfl
  | fmul => rfl
  | fpow => rfl
  | finv => rfl
  | fdiv => rfl
  | feq => rfl
  | fget => rfl
  | pnewN => rfl
  | pnewY => rfl
  | pnewX => rfl
  | pnewXY => rfl
  | padd => rfl
  | pmul => rfl
  | peq => rfl
  | pget => rfl

/-- STAT presents `STATUS` and changes nothing else (R130). -/
theorem exec_stat (s : State) : exec .stat s = .next (s.respond ⟨.ok, false, statDout s.status⟩) := rfl

/-- Everything a step can do. -/
theorem step_cases (s : State) :
    (s.edge.rst = true ∧ step s = .next s.advance.applyReset) ∨
    (s.edge.rst = false ∧ s.port = .idle ∧ step s = .next (s.advance.offerCommand s.edge)) ∨
    (∃ c i, s.edge.rst = false ∧ s.port = .busy c ∧ decode c.word = some i ∧ step s = exec i s.advance) ∨
    (∃ c, s.edge.rst = false ∧ s.port = .busy c ∧ decode c.word = none ∧ step s = .next s.advance.rejectWord) ∨
    (∃ r, s.edge.rst = false ∧ s.port = .done r ∧ step s = .next (s.advance.offerResponse s.edge r)) := by
  cases hr : s.edge.rst with
  | true => exact .inl ⟨rfl, by simp [step, hr]⟩
  | false =>
    cases hp : s.port with
    | idle => exact .inr (.inl ⟨rfl, rfl, by simp [step, hr, hp]⟩)
    | done r => exact .inr (.inr (.inr (.inr ⟨r, rfl, rfl, by simp [step, hr, hp]⟩)))
    | busy c =>
      cases hd : decode c.word with
      | some i => exact .inr (.inr (.inl ⟨c, i, rfl, rfl, hd, by simp [step, hr, hp, hd]⟩))
      | none => exact .inr (.inr (.inr (.inl ⟨c, rfl, rfl, hd, by simp [step, hr, hp, hd]⟩)))

@[simp] theorem State.edge_cons (s : State) (e : HostEdge) (es : List HostEdge) :
    State.edge { s with inputs := e :: es } = e := rfl

@[simp] theorem State.edge_reset : State.reset.edge = HostEdge.quiet := rfl

/-- The word placed is the command in flight of the very next step. -/
theorem State.withFetchWord_port (s : State) (nbits w : Nat) :
    (s.withFetchWord nbits w).port = .busy ⟨BitVec.ofNat 32 (w % 2 ^ nbits), s.din0, s.din1⟩ := rfl

/-- Placing a word leaves the architectural state alone. -/
@[simp] theorem State.withFetchWord_toArch (s : State) (nbits w : Nat) :
    (s.withFetchWord nbits w).toArch = s.toArch := rfl

/-- No reset stands before the placed word. -/
@[simp] theorem State.withFetchWord_rst (s : State) (nbits w : Nat) :
    (s.withFetchWord nbits w).edge.rst = false := rfl

end Sys2Proof.Machine
end

