-- ==== Sys2Proof/Tests/Slice0.lean ====
section
/-! SUPPORT. Tests: the smoke test of WellFormed, every row's word decoded, one-step tests of the commands with the
numbers of spec/95_test_vectors.md and spec/96_test_vectors_extended.md, and a witness for the hypotheses of every
obligation. -/

namespace Sys2Proof.Tests

open Sys2Proof.Machine

/-! ### WellFormed refuses an ill-formed term at each of its checks (R54, R56) -/

/-- The form each of the following is one field away from: `FADD F1, F2, F3`. -/
theorem test_wf_accepts_fadd : (⟨0x11, 1, 2, 3, 0, 0, 0⟩ : Fields).wf = true := by decide

theorem test_wf_refuses_undefined_opcodes :
    (⟨0x00, 0, 0, 0, 0, 0, 0⟩ : Fields).wf = false ∧ (⟨0x02, 0, 0, 0, 0, 0, 0⟩ : Fields).wf = false ∧
    (⟨0x19, 0, 0, 0, 0, 0, 0⟩ : Fields).wf = false ∧ (⟨0x25, 0, 0, 0, 0, 0, 0⟩ : Fields).wf = false := by decide

theorem test_wf_refuses_unused_rd : (⟨0x17, 1, 2, 3, 0, 0, 0⟩ : Fields).wf = false := by decide

theorem test_wf_refuses_unused_rs1 : (⟨0x10, 1, 2, 0, 0, 0, 0⟩ : Fields).wf = false := by decide

theorem test_wf_refuses_unused_rs2 : (⟨0x14, 1, 2, 3, 0, 0, 0⟩ : Fields).wf = false := by decide

theorem test_wf_refuses_rs3_and_rs4_outside_pnew :
    (⟨0x11, 1, 2, 3, 4, 0, 0⟩ : Fields).wf = false ∧ (⟨0x11, 1, 2, 3, 0, 4, 0⟩ : Fields).wf = false := by decide

theorem test_wf_refuses_cp_outside_pnew :
    (⟨0x11, 1, 2, 3, 0, 0, 1⟩ : Fields).wf = false ∧ (⟨0x11, 1, 2, 3, 4, 5, 3⟩ : Fields).wf = false := by decide

/-- In PNEW `rs3` follows `xp`, `rs4` follows `yp`, and bits 3:2 of `cp` are reserved; the register number 0 is legal
where the coordinate is present. -/
theorem test_wf_pnew :
    (⟨0x20, 1, 2, 3, 4, 5, 3⟩ : Fields).wf = true ∧ (⟨0x20, 1, 2, 3, 0, 0, 3⟩ : Fields).wf = true ∧
    (⟨0x20, 1, 2, 3, 4, 0, 0⟩ : Fields).wf = false ∧ (⟨0x20, 1, 2, 3, 0, 5, 2⟩ : Fields).wf = false ∧
    (⟨0x20, 1, 2, 3, 4, 5, 7⟩ : Fields).wf = false ∧ (⟨0x20, 1, 2, 3, 4, 5, 11⟩ : Fields).wf = false := by decide

/-- R50: a data input of more than `W` bits is no data input; the widest one is. -/
theorem test_wf_refuses_a_wide_data_input :
    ¬(⟨0x10000000, 2 ^ Config.W, 0⟩ : Command).WellFormed ∧ ¬(⟨0x10000000, 0, 2 ^ Config.W⟩ : Command).WellFormed ∧
    (⟨0x10000000, 2 ^ Config.W - 1, 0⟩ : Command).WellFormed := by
  have := Config.two_pow_W_pos
  simp only [Command.WellFormed]
  omega

/-- R60: an assembly line whose `#n` is `2^W` is refused. -/
theorem test_wf_refuses_a_wide_immediate : ¬(Asm.fnew 0 0 (2 ^ Config.W)).WellFormed ∧ (Asm.fnew 0 0 0).WellFormed := by
  have := Config.two_pow_W_pos
  simp only [Asm.WellFormed, Asm.din]
  omega

/-! ### Decoding, a word of every row (the words of spec/95_test_vectors.md section 2.6) -/

theorem test_decode_stat : decode 0x01000000#32 = some .stat := by decide
theorem test_decode_fnew : decode 0x10900000#32 = some (.fnew 9) := by decide
theorem test_decode_fadd : decode 0x11123000#32 = some (.fadd 1 2 3) := by decide
theorem test_decode_fsub : decode 0x12FED000#32 = some (.fsub 15 14 13) := by decide
theorem test_decode_fmul : decode 0x13456000#32 = some (.fmul 4 5 6) := by decide
theorem test_decode_fpow : decode 0x14780000#32 = some (.fpow 7 8) := by decide
theorem test_decode_finv : decode 0x15AB0000#32 = some (.finv 10 11) := by decide
theorem test_decode_fdiv : decode 0x16C12000#32 = some (.fdiv 12 1 2) := by decide
theorem test_decode_feq : decode 0x17034000#32 = some (.feq 3 4) := by decide
theorem test_decode_fget : decode 0x18050000#32 = some (.fget 5) := by decide
theorem test_decode_pnewN : decode 0x20678000#32 = some (.pnewN 6 7 8) := by decide
theorem test_decode_pnewY : decode 0x20DEF011#32 = some (.pnewY 13 14 15 1) := by decide
theorem test_decode_pnewX : decode 0x209ABC02#32 = some (.pnewX 9 10 11 12) := by decide
theorem test_decode_pnewXY : decode 0x20123453#32 = some (.pnewXY 1 2 3 4 5) := by decide
theorem test_decode_padd : decode 0x21234000#32 = some (.padd 2 3 4) := by decide
theorem test_decode_pmul : decode 0x22560000#32 = some (.pmul 5 6) := by decide
theorem test_decode_peq : decode 0x23078000#32 = some (.peq 7 8) := by decide
theorem test_decode_pget : decode 0x240F0000#32 = some (.pget 15) := by decide

/-- A word written out bit by bit: opcode 0x20, then 1, 2, 3, 4, 5 in the five register fields, then `cp = 0011`. -/
theorem test_decode_bits :
    decode 0b0010_0000_0001_0010_0011_0100_0101_0011#32 = some (.pnewXY 1 2 3 4 5) := by decide

/-- The words of section 2.5 that are no commands, first half. -/
theorem test_decode_refuses_opcodes_and_unused_fields :
    [0x00000000#32, 0xFFFFFFFF#32, 0x19000000#32, 0x25000000#32, 0x02000000#32, 0x01100000#32, 0x10010000#32,
      0x11100001#32].map decode = List.replicate 8 none := by decide

/-- The words of section 2.5 that are no commands, second half. -/
theorem test_decode_refuses_more :
    [0x14101000#32, 0x17100000#32, 0x18001000#32, 0x20000100#32, 0x20000111#32, 0x20000112#32, 0x20000004#32,
      0x20000117#32, 0x22101000#32, 0x24100000#32].map decode = List.replicate 10 none := by decide

theorem test_decodeTableWord :
    decodeTableWord 32 0x12FED000 = some (.fsub 15 14 13) ∧ decodeTableWord 32 0 = none ∧
    decodeTableWord 40 0x12FED000 = none := by decide

/-! ### Assembly lines (R60, R61; the lines of section 2.6) -/

/-- The command of a line of text. -/
def asm (line : String) : Option Command := (Asm.parseLine line.toList).map Asm.assemble

theorem test_asm_fnew : asm "  FNEW F9, #0x5,  #7 ; a comment" = some ⟨0x10900000#32, 5, 7⟩ := by decide
theorem test_asm_fsub : asm "FSUB F15, F14, F13" = some ⟨0x12FED000#32, 0, 0⟩ := by decide
theorem test_asm_pnewX : asm "PNEW PT9, F10, F11, F12, -" = some ⟨0x209ABC02#32, 0, 0⟩ := by decide
theorem test_asm_pnewY : asm "PNEW PT13, F14, F15, -, F1" = some ⟨0x20DEF011#32, 0, 0⟩ := by decide
theorem test_asm_pinf : asm "PINF PT6, F7, F8" = some ⟨0x20678000#32, 0, 0⟩ := by decide
theorem test_asm_pdbl : asm "PDBL PT2, PT3" = some ⟨0x21233000#32, 0, 0⟩ := by decide
theorem test_asm_pmul : asm "PMUL PT5, PT6, #9" = some ⟨0x22560000#32, 9, 0⟩ := by decide
theorem test_asm_refuses : asm "FADD F1, F2" = none ∧ asm "FGET F16" = none ∧ asm "PGET F1" = none := by decide

/-! ### A small state -/

/-- `F[r] <- value:prime`. -/
def withF (s : State) (r : FReg) (value prime : Nat) : State := { s with f := s.f.set r (.full ⟨value, prime⟩) }

/-- `PT[r]`, a concrete point of `y² = x³ + b` over `p`. -/
def withPT (s : State) (r : PReg) (b x y p : Nat) : State :=
  { s with pt := s.pt.set r (.full ⟨⟨0, p⟩, ⟨b, p⟩, .onCurve ⟨x, p⟩ ⟨y, p⟩⟩) }

/-- `PT[r]`, the infinity of `y² = x³` over `p`. -/
def withInf (s : State) (r : PReg) (p : Nat) : State := { s with pt := s.pt.set r (.full ⟨⟨0, p⟩, ⟨0, p⟩, .infinity⟩) }

/-- The block with a command in flight. -/
def inFlight (s : State) (w : CmdWord) (d0 d1 : Nat) : State := { s with port := .busy ⟨w, d0, d1⟩ }

/-- F0 = 5:7, F1 = 4:7, F2 = 0:7, F3 = 3:11, F7 = 2:7; the other registers empty (section 2.1). -/
def fieldState : State :=
  withF (withF (withF (withF (withF State.reset 0 5 7) 1 4 7) 2 0 7) 3 3 11) 7 2 7

/-- F0 = 0:7, F1 = 1:7, F2 = 6:7, F3 = 2:7, F4 = 1:11 and PT0 = (1,6), PT1 = infinity, PT2 = (1,1), PT3 = (0,0),
PT4 = (2,1) on `y² = x³` over 7, PT5 = infinity over 11, the other registers empty (section 2.3). -/
def pointState : State :=
  withInf (withPT (withPT (withPT (withInf (withPT
    (withF (withF (withF (withF (withF State.reset 0 0 7) 1 1 7) 2 6 7) 3 2 7) 4 1 11)
    0 0 1 6 7) 1 7) 2 0 1 1 7) 3 0 0 0 7) 4 0 2 1 7) 5 11

/-- What `x` reads of the state a step answers. -/
def seen {α : Type} (o : Outcome) (x : State → α) : Option α :=
  match o with
  | .next t => some (x t)
  | .fault _ => none
  | .refused _ => none

/-- The response a port presents. -/
def rsp (s : State) : Option Response :=
  match s.port with
  | .done r => some r
  | .idle => none
  | .busy _ => none

/-- The response of a failure. -/
def bare (st : Status) : Option Response := some ⟨st, false, #v[0, 0, 0, 0, 0, 0, 0, 0]⟩

/-- The field-element register `r` and `STATUS` after a step of `s` with the word `w` in flight. -/
def fAfter (s : State) (w : CmdWord) (d0 d1 : Nat) (r : FReg) : Option (Slot FE × Status) :=
  seen (step (inFlight s w d0 d1)) fun t => (t.f[r], t.status)

/-- The point register `r` and `STATUS` after a step of `s` with the word `w` in flight. -/
def ptAfter (s : State) (w : CmdWord) (d0 : Nat) (r : PReg) : Option (Slot Point × Status) :=
  seen (step (inFlight s w d0 0)) fun t => (t.pt[r], t.status)

/-- The response after a step of `s` with the word `w` in flight. -/
def rspAfter (s : State) (w : CmdWord) (d0 d1 : Nat) : Option (Option Response) :=
  seen (step (inFlight s w d0 d1)) rsp

/-- A field element in a register, as `f`. -/
def fe (value prime : Nat) : Slot FE := .full ⟨value, prime⟩

/-- A concrete point of `y² = x³ + b` over `p` in a register. -/
def pt (b x y p : Nat) : Slot Point := .full ⟨⟨0, p⟩, ⟨b, p⟩, .onCurve ⟨x, p⟩ ⟨y, p⟩⟩

/-- The infinity of `y² = x³` over `p` in a register. -/
def inf (p : Nat) : Slot Point := .full ⟨⟨0, p⟩, ⟨0, p⟩, .infinity⟩

/-! ### The commands, one step each -/

/-- 2.5 rows 3 and 4: STAT shows 7 and keeps it (with the premise under which 7 fits a data word). -/
theorem test_stat (h : 4 ≤ Config.W) :
    seen (exec .stat { State.reset with status := .illegalCommand }) (fun t => (t.status, rsp t)) =
      some (.illegalCommand, some ⟨.ok, false, #v[7, 0, 0, 0, 0, 0, 0, 0]⟩) := by
  have h7 : 7 % 2 ^ Config.W = 7 :=
    Nat.mod_eq_of_lt (Nat.lt_of_lt_of_le (by decide : 7 < 2 ^ 4) (Nat.pow_le_pow_right (by decide) h))
  simp [exec, execStat, State.respond, seen, rsp, statDout, zextW, Status.code, h7]

/-- 2.1 rows 1 and 9. -/
theorem test_fnew :
    fAfter State.reset 0x10000000#32 5 7 0 = some (fe 5 7, .ok) ∧
    fAfter State.reset 0x10500000#32 254 255 5 = some (fe 254 255, .ok) := by decide

/-- 2.1 rows 5 and 7: the value equal to the prime, and the prime 0. -/
theorem test_fnew_out_of_range :
    fAfter State.reset 0x10400000#32 7 7 4 = some (.empty, .outOfRange) ∧
    rspAfter State.reset 0x10400000#32 0 0 = some (bare .outOfRange) := by decide

/-- 2.1 rows 10 and 13: 5 + 4 = 2, and 5 + 2 = 0. -/
theorem test_fadd :
    fAfter fieldState 0x11601000#32 0 0 6 = some (fe 2 7, .ok) ∧
    fAfter fieldState 0x11607000#32 0 0 6 = some (fe 0 7, .ok) := by decide

/-- 2.1 row 14 and the width corner's row 2: different primes; a sum of more bits than the modulus. -/
theorem test_fadd_mismatch_and_width :
    fAfter fieldState 0x11603000#32 0 0 6 = some (.empty, .fieldMismatch) ∧
    fAfter (withF State.reset 0 250 251) 0x11100000#32 0 0 1 = some (fe 249 251, .ok) := by decide

/-- 2.1 rows 16 and 17: 2 - 5 = 4, 5 - 2 = 3. -/
theorem test_fsub :
    fAfter fieldState 0x12670000#32 0 0 6 = some (fe 4 7, .ok) ∧
    fAfter fieldState 0x12607000#32 0 0 6 = some (fe 3 7, .ok) := by decide

/-- 2.1 rows 18 and 21: 0 - 0 is 0, not 7; different primes. -/
theorem test_fsub_zero_and_mismatch :
    fAfter fieldState 0x12622000#32 0 0 6 = some (fe 0 7, .ok) ∧
    fAfter fieldState 0x12630000#32 0 0 6 = some (.empty, .fieldMismatch) := by decide

/-- 2.1 rows 22 and 33: 5 * 4 = 6; 254 * 254 = 1 modulo 255. -/
theorem test_fmul :
    fAfter fieldState 0x13601000#32 0 0 6 = some (fe 6 7, .ok) ∧
    fAfter (withF State.reset 5 254 255) 0x13955000#32 0 0 9 = some (fe 1 255, .ok) := by decide

/-- The shape of 2.1 row 25: the destination is also both sources, read before it is written: 5 * 5 = 4. -/
theorem test_fmul_same_register : fAfter fieldState 0x13000000#32 0 0 0 = some (fe 4 7, .ok) := by decide

/-- 2.2 rows 7 and 11: 0^0 = 1, 3^255 = 6. -/
theorem test_fpow :
    fAfter (withF State.reset 2 0 7) 0x14520000#32 0 0 5 = some (fe 1 7, .ok) ∧
    fAfter (withF State.reset 0 3 7) 0x14500000#32 255 0 5 = some (fe 6 7, .ok) := by decide

/-- 2.2 row 26 and E1 row 5: an empty source; 0^0 modulo 1 is 0. -/
theorem test_fpow_empty_and_modulus_one :
    fAfter State.reset 0x145A0000#32 2 0 5 = some (.empty, .emptyRegister) ∧
    fAfter (withF State.reset 3 0 1) 0x14430000#32 0 0 4 = some (fe 0 1, .ok) := by decide

/-- 2.2 row 13 and E1 row 8: 5^-1 = 3 modulo 7; 3^2 = 1 modulo the composite 4, evaluated literally. -/
theorem test_finv :
    fAfter (withF State.reset 1 5 7) 0x15610000#32 0 0 6 = some (fe 3 7, .ok) ∧
    fAfter (withF State.reset 6 3 4) 0x15760000#32 0 0 7 = some (fe 1 4, .ok) := by decide

/-- 2.2 row 16: zero has no inverse, and the destination keeps what it held. -/
theorem test_finv_zero :
    fAfter (withF (withF State.reset 2 0 7) 6 1 7) 0x15620000#32 0 0 6 = some (fe 1 7, .divisionByZero) := by decide

/-- 2.2 row 18: 3 / 5 = 2. -/
theorem test_fdiv :
    fAfter (withF (withF State.reset 0 3 7) 1 5 7) 0x16801000#32 0 0 8 = some (fe 2 7, .ok) := by decide

/-- 2.2 rows 24 and 25: 0 / 0; different primes and a zero divisor, where FieldMismatch wins. -/
theorem test_fdiv_failures :
    rspAfter (withF State.reset 2 0 7) 0x16822000#32 0 0 = some (bare .divisionByZero) ∧
    rspAfter (withF (withF State.reset 0 3 7) 4 0 11) 0x16804000#32 0 0 = some (bare .fieldMismatch) := by decide

/-- 2.1 rows 27 and 28, equal and unequal. -/
theorem test_feq :
    rspAfter (withF fieldState 0 2 7) 0x17007000#32 0 0 = some (some ⟨.ok, true, #v[0, 0, 0, 0, 0, 0, 0, 0]⟩) ∧
    rspAfter fieldState 0x17001000#32 0 0 = some (bare .ok) := by decide

/-- 2.1 row 30: equal values of different primes, false and no error. -/
theorem test_feq_different_primes :
    rspAfter (withF fieldState 8 3 7) 0x17083000#32 0 0 = some (bare .ok) := by decide

/-- 2.5 row 25: read out, with data inputs that are ignored. -/
theorem test_fget :
    rspAfter (withF State.reset 0 1 7) 0x18000000#32 99 99 =
      some (some ⟨.ok, false, #v[1, 7, 0, 0, 0, 0, 0, 0]⟩) := by decide

/-- 2.1 row 34. -/
theorem test_fget_empty : rspAfter fieldState 0x180A0000#32 0 0 = some (bare .emptyRegister) := by decide

/-- 2.3 row 8 and E3 row 13: the infinity; its constants may be of different fields. -/
theorem test_pnewN :
    ptAfter pointState 0x20600000#32 0 6 = some (inf 7, .ok) ∧
    ptAfter pointState 0x20504000#32 0 5 = some (.full ⟨⟨0, 7⟩, ⟨1, 11⟩, .infinity⟩, .ok) := by decide

/-- 2.3 row 10: a lone `y`. -/
theorem test_pnewY : ptAfter pointState 0x20800021#32 0 8 = some (.empty, .invalidInfinity) := by decide

/-- 2.3 rows 9 and 14: a lone `x`; an empty register comes first. -/
theorem test_pnewX :
    ptAfter pointState 0x20800102#32 0 8 = some (.empty, .invalidInfinity) ∧
    ptAfter pointState 0x20800602#32 0 8 = some (.empty, .emptyRegister) := by decide

/-- 2.3 rows 7 and 18: (1,6) and (2,1). -/
theorem test_pnewXY :
    ptAfter pointState 0x20800123#32 0 8 = some (pt 0 1 6 7, .ok) ∧
    ptAfter pointState 0x20800313#32 0 8 = some (pt 0 2 1 7, .ok) := by decide

/-- 2.3 rows 11, 12 and 13: `x` over 11; (2,2) off the curve; F6 empty. -/
theorem test_pnewXY_failures :
    ptAfter pointState 0x20800423#32 0 8 = some (.empty, .fieldMismatch) ∧
    ptAfter pointState 0x20800333#32 0 8 = some (.empty, .notOnCurve) ∧
    ptAfter pointState 0x20800623#32 0 8 = some (.empty, .emptyRegister) := by decide

/-- The source's scenarios S1 and S2: (1,6) + (2,1) = (1,1); (1,6) doubled is (2,6). -/
theorem test_padd :
    ptAfter pointState 0x21604000#32 0 6 = some (pt 0 1 1 7, .ok) ∧
    ptAfter pointState 0x21000000#32 0 0 = some (pt 0 2 6 7, .ok) := by decide

/-- E4 row 12 over 223; E3 row 10, a mismatch that the identity does not rescue; E6 row 6, the left-over case. -/
theorem test_padd_more :
    ptAfter (withPT (withPT State.reset 0 7 192 105 223) 1 7 17 56 223) 0x21301000#32 0 3 =
      some (pt 7 170 142 223, .ok) ∧
    ptAfter pointState 0x21605000#32 0 6 = some (.empty, .fieldMismatch) ∧
    ptAfter (withPT (withPT State.reset 0 0 0 0 4) 1 0 0 2 4) 0x21201000#32 0 2 = some (.empty, .internal) := by decide

/-- 2.4: 3·(1,6) = (4,1) and 7·(1,6) = infinity. -/
theorem test_pmul :
    ptAfter pointState 0x22600000#32 3 6 = some (pt 0 4 1 7, .ok) ∧
    ptAfter pointState 0x22600000#32 7 6 = some (inf 7, .ok) := by decide

/-- 2.4 and E6 row 9: 9·(1,6) = (2,6); the composite modulus 4 ends Internal. -/
theorem test_pmul_more :
    ptAfter pointState 0x22600000#32 9 6 = some (pt 0 2 6 7, .ok) ∧
    ptAfter (withPT State.reset 3 0 1 1 4) 0x22230000#32 2 2 = some (.empty, .internal) := by decide

/-- 2.3 row 37: a concrete point and an infinity; and a point with itself. -/
theorem test_peq :
    rspAfter pointState 0x23001000#32 0 0 = some (bare .ok) ∧
    rspAfter pointState 0x23000000#32 0 0 = some (some ⟨.ok, true, #v[0, 0, 0, 0, 0, 0, 0, 0]⟩) := by decide

/-- E3 row 19: infinities of different curves are not equal. -/
theorem test_peq_infinities : rspAfter pointState 0x23015000#32 0 0 = some (bare .ok) := by decide

/-- The shape of 2.3 rows 30 and 24: a concrete point, and an infinity with its flag. -/
theorem test_pget :
    rspAfter pointState 0x24040000#32 0 0 = some (some ⟨.ok, false, #v[0, 7, 0, 7, 2, 7, 1, 7]⟩) ∧
    rspAfter pointState 0x24010000#32 0 0 = some (some ⟨.ok, true, #v[0, 7, 0, 7, 0, 0, 0, 0]⟩) := by decide

/-! ### The port -/

/-- A host that presents FNEW F0, #5, #7 at the first edge and takes the response at the third: three edges, one
response, the register written (R63, R163). -/
theorem test_port_round :
    (steps 3 { State.reset with inputs := planEdges [⟨⟨0x10000000#32, 5, 7⟩, 0, 0⟩] }).map
      (fun t => (t.f[0], t.port, t.collected)) =
      some (fe 5 7, .idle, [⟨.ok, false, #v[0, 0, 0, 0, 0, 0, 0, 0]⟩]) := by decide

/-- R161: an edge with `rst = 1` while a command is in flight: nothing of it happens. -/
theorem test_reset_abandons :
    seen (step { inFlight fieldState 0x11601000#32 0 0 with inputs := [⟨true, true, 0x18000000#32, 0, 0, true⟩] })
      (fun t => (t.toArch, t.port)) = some (Arch.reset, .idle) := by decide

/-- R57: the all-zero word, 2.5 row 2. -/
theorem test_illegal_word :
    seen (step (inFlight fieldState 0#32 0 0)) (fun t => (t.f, t.pt, t.status, rsp t)) =
      some (fieldState.f, fieldState.pt, .illegalCommand, bare .illegalCommand) := by decide

/-- `withFetchWord` at reset: the very next step runs the word. -/
theorem test_withFetchWord :
    step (State.reset.withFetchWord 32 0x11123000) =
      exec (.fadd 1 2 3) { State.reset with port := .busy ⟨0x11123000#32, 0, 0⟩ } := rfl

/-! ### Witnesses: a concrete state and operands for the hypotheses of each obligation, clause by clause -/

/-- (1,6) on `y² = x³` over 7. -/
def pointP : Point := ⟨⟨0, 7⟩, ⟨0, 7⟩, .onCurve ⟨1, 7⟩ ⟨6, 7⟩⟩

/-- (2,1) on `y² = x³` over 7. -/
def pointQ : Point := ⟨⟨0, 7⟩, ⟨0, 7⟩, .onCurve ⟨2, 7⟩ ⟨1, 7⟩⟩

/-- (0,0) on `y² = x³` over 7. -/
def pointZ : Point := ⟨⟨0, 7⟩, ⟨0, 7⟩, .onCurve ⟨0, 7⟩ ⟨0, 7⟩⟩

/-- The infinity of `y² = x³` over 7. -/
def pointO : Point := ⟨⟨0, 7⟩, ⟨0, 7⟩, .infinity⟩

theorem lawful_pointP : pointP.Lawful := by
  simp only [Point.Lawful, Coord.Lawful, FE.InField, pointP]
  decide

theorem lawful_pointQ : pointQ.Lawful := by
  simp only [Point.Lawful, Coord.Lawful, FE.InField, pointQ]
  decide

theorem lawful_pointZ : pointZ.Lawful := by
  simp only [Point.Lawful, Coord.Lawful, FE.InField, pointZ]
  decide

theorem lawful_pointO : pointO.Lawful := by
  simp only [Point.Lawful, Coord.Lawful, FE.InField, pointO]
  decide

theorem prime_seven : Nat.Prime 7 := by norm_num

theorem witness_EachInstructionHasOneWord : decode 0x11123000#32 = some (.fadd 1 2 3) := by decide

/-- The first and the last row. -/
theorem witness_NoWordMatchesTwoRows :
    (0 < rows.length ∧ rows[0].matches 0x01000000#32 = true) ∧
    (17 < rows.length ∧ rows[17].matches 0x240F0000#32 = true) := by decide

theorem witness_IllegalCommandChangesOnlyStatus :
    (inFlight fieldState 0x19000000#32 1 2).port = .busy ⟨0x19000000#32, 1, 2⟩ ∧
    (inFlight fieldState 0x19000000#32 1 2).edge.rst = false ∧ (fieldsOf 0x19000000#32).wf = false := by decide

/-- Both conditions of the conditional subtraction, and the bounds of the range. -/
theorem witness_ModularAdderIsResidueOfSum :
    (0 < 1 ∧ 0 + 0 < 1) ∧ (6 < 7 ∧ ¬(6 + 6 < 7)) ∧ (6 < 7 ∧ 1 < 7 ∧ 6 + 1 = 7) := by decide

/-- `b = a`, `b < a`, and `a < b` at the ends of the range. -/
theorem witness_ModularSubtractorIsFieldDifference :
    (6 < 7 ∧ 6 ≤ 6) ∧ (0 < 7 ∧ 6 < 7 ∧ 0 ≤ 6) ∧ (0 < 7 ∧ 6 < 7 ∧ 0 < 6) := by decide

theorem witness_ModularMultiplierIsResidueOfProduct : 254 < 255 ∧ 0 < 1 := by decide

theorem witness_RingLawsForEveryModulus : 3 < 4 ∧ 2 < 4 ∧ 0 < 4 ∧ (1 < 4 ∧ modadd 1 2 4 = 3) := by decide

theorem witness_ExponentiationIsIteratedMultiplication : 0 < 1 ∧ 6 < 7 := by decide

/-- The range clause at its smallest modulus, and the inverse clause at a prime. -/
theorem witness_FermatInversion : (1 < 2 ∧ 1 ≠ 0) ∧ (Nat.Prime 7 ∧ 5 < 7 ∧ 5 ≠ 0) :=
  ⟨by decide, prime_seven, by decide⟩

theorem witness_DivisionLaws : 1 ≤ 1 ∧ (Nat.Prime 7 ∧ 3 < 7 ∧ 6 < 7 ∧ 6 ≠ 0 ∧ 3 ≠ 0) ∧ 3 ≠ 0 :=
  ⟨by decide, ⟨prime_seven, by decide⟩, by decide⟩

theorem witness_CurveMembershipIsTheEquation : 0 < 7 ∧ 1 < 7 ∧ 6 < 7 ∧ oncurve 0 0 1 6 7 = true := by decide

/-- Different constants; the vertical line, at opposite ordinates and at ordinate 0; doubling; distinct abscissas; and the
case left over, modulo 4. No two of the last four overlap. -/
theorem witness_PointAdditionCases :
    (¬(pointP.a = (⟨1, 7⟩ : FE) ∧ pointP.b = (⟨0, 7⟩ : FE))) ∧
    (1 = 1 ∧ (6 + 1) % 7 = 0) ∧ (0 = 0 ∧ (0 + 0) % 7 = 0) ∧
    (1 = 1 ∧ (6 + 6) % 7 ≠ 0 ∧ 6 = 6) ∧ 1 ≠ 2 ∧ (0 = 0 ∧ (0 + 2) % 4 ≠ 0 ∧ 0 ≠ 2) := by decide

theorem witness_ThirdPointIsCheckedAndDivisorsAreNotZero :
    (1 < 7 ∧ 6 < 7 ∧ 0 < 7) ∧ (modadd 6 6 7 ≠ 0 ∧ 6 = 6) ∧ (0 < 7 ∧ 6 < 7 ∧ 0 ≠ 6) := by decide

theorem witness_PointAdditionStaysOnTheCurve :
    pointP.Lawful ∧ pointQ.Lawful ∧ ecadd pointP pointQ = .ok ⟨⟨0, 7⟩, ⟨0, 7⟩, .onCurve ⟨1, 7⟩ ⟨1, 7⟩⟩ :=
  ⟨lawful_pointP, lawful_pointQ, by decide⟩

/-- A lawful concrete point, and one of ordinate 0. -/
theorem witness_GroupLawsOfEveryModulus : pointP.Lawful ∧ (⟨0, 7⟩ : FE).value = 0 := ⟨lawful_pointP, rfl⟩

theorem witness_PointAdditionCommutesForPrimes :
    pointP.Lawful ∧ pointQ.Lawful ∧ pointP.a = pointQ.a ∧ pointP.b = pointQ.b ∧ pointP.a.prime.Prime :=
  ⟨lawful_pointP, lawful_pointQ, rfl, rfl, prime_seven⟩

/-- Doubling, distinct points and an infinity. -/
theorem witness_InternalIsUnreachableForPrimes :
    pointP.Lawful ∧ pointZ.Lawful ∧ pointO.Lawful ∧ pointP.a = pointZ.a ∧ pointP.b = pointZ.b ∧
    pointP.a = pointO.a ∧ pointP.b = pointO.b ∧ pointP.a.prime.Prime :=
  ⟨lawful_pointP, lawful_pointZ, lawful_pointO, rfl, rfl, rfl, rfl, prime_seven⟩

/-- A multiple that exists, one that ends Internal (modulo 4), infinity, a lawful point over a prime, ordinate 0. -/
theorem witness_ScalarMultiplicationIsRepeatedAddition :
    ecmul pointP 2 = .ok ⟨⟨0, 7⟩, ⟨0, 7⟩, .onCurve ⟨2, 7⟩ ⟨6, 7⟩⟩ ∧
    ecmul ⟨⟨0, 4⟩, ⟨0, 4⟩, .onCurve ⟨1, 4⟩ ⟨1, 4⟩⟩ 2 = .error .internal ∧
    pointO.c = .infinity ∧ (pointP.Lawful ∧ pointP.a.prime.Prime) ∧ pointZ.c = .onCurve ⟨0, 7⟩ ⟨0, 7⟩ :=
  ⟨by decide, by decide, rfl, ⟨lawful_pointP, prime_seven⟩, rfl⟩

/-- A word of STAT's opcode that is not STAT's word, and a width. -/
theorem witness_StatShowsStatusAndKeepsIt :
    (0x01100000#32).extractLsb' 24 8 = 0x01#8 ∧ 0x01100000#32 ≠ 0x01000000#32 ∧ 4 ≤ 4 := by decide

/-- A command in flight, in range and out of range, at the bounds `value = prime - 1` and `value = prime`. -/
theorem witness_FnewConstructsInRange :
    ((inFlight State.reset 0x10000000#32 6 7).port = .busy ⟨0x10000000#32, 6, 7⟩ ∧ 6 < 7) ∧
    ((inFlight State.reset 0x10000000#32 7 7).port = .busy ⟨0x10000000#32, 7, 7⟩ ∧ 7 ≤ 7) := by decide

/-- Equal primes, different primes, and an empty register on either side. -/
theorem witness_FaddAddsInTheField :
    (fieldState.f[(0 : FReg)] = fe 5 7 ∧ fieldState.f[(1 : FReg)] = fe 4 7) ∧
    (fieldState.f[(3 : FReg)] = fe 3 11 ∧ 7 ≠ 11) ∧ fieldState.f[(10 : FReg)] = .empty := by decide

/-- As for FADD, with `b <= a` and with `a < b`. -/
theorem witness_FsubSubtractsInTheField :
    (fieldState.f[(0 : FReg)] = fe 5 7 ∧ fieldState.f[(7 : FReg)] = fe 2 7 ∧ 2 ≤ 5 ∧ ¬(5 ≤ 2)) ∧
    (fieldState.f[(3 : FReg)] = fe 3 11 ∧ 7 ≠ 11) ∧ fieldState.f[(15 : FReg)] = .empty := by decide

theorem witness_FmulMultipliesInTheField :
    (fieldState.f[(0 : FReg)] = fe 5 7 ∧ fieldState.f[(2 : FReg)] = fe 0 7) ∧
    (fieldState.f[(3 : FReg)] = fe 3 11 ∧ 7 ≠ 11) ∧ fieldState.f[(10 : FReg)] = .empty := by decide

theorem witness_FeqComparesValueAndPrime :
    (fieldState.f[(0 : FReg)] = fe 5 7 ∧ fieldState.f[(3 : FReg)] = fe 3 11) ∧
    fieldState.f[(10 : FReg)] = .empty := by decide

theorem witness_FgetReadsTheElementOut :
    fieldState.f[(3 : FReg)] = fe 3 11 ∧ fieldState.f[(10 : FReg)] = .empty := by decide

theorem witness_FpowRaisesToTheDataInput :
    (inFlight fieldState 0x14500000#32 255 0).port = .busy ⟨0x14500000#32, 255, 0⟩ ∧
    (inFlight fieldState 0x14500000#32 255 0).f[(0 : FReg)] = fe 5 7 ∧
    (inFlight fieldState 0x14500000#32 255 0).f[(10 : FReg)] = .empty := by decide

/-- A divisor that is not 0, one that is, and an empty register. -/
theorem witness_FinvIsTheFermatPower :
    (fieldState.f[(0 : FReg)] = fe 5 7 ∧ 5 ≠ 0) ∧ fieldState.f[(2 : FReg)] = fe 0 7 ∧
    fieldState.f[(10 : FReg)] = .empty := by decide

theorem witness_FdivMultipliesByTheFermatInverse :
    (fieldState.f[(0 : FReg)] = fe 5 7 ∧ fieldState.f[(1 : FReg)] = fe 4 7 ∧ 4 ≠ 0) ∧
    (fieldState.f[(3 : FReg)] = fe 3 11 ∧ 7 ≠ 11) ∧ fieldState.f[(2 : FReg)] = fe 0 7 ∧
    fieldState.f[(10 : FReg)] = .empty := by decide

/-- Constants, coordinates on the curve, coordinates off it, a coordinate of another field, an empty register. -/
theorem witness_PnewConstructsPoints :
    (pointState.f[(0 : FReg)] = fe 0 7 ∧ pointState.f[(1 : FReg)] = fe 1 7 ∧ pointState.f[(2 : FReg)] = fe 6 7 ∧
      oncurve 0 0 1 6 7 = true) ∧
    (pointState.f[(3 : FReg)] = fe 2 7 ∧ oncurve 0 0 2 2 7 = false) ∧
    (pointState.f[(4 : FReg)] = fe 1 11 ∧ 7 ≠ 11) ∧ pointState.f[(6 : FReg)] = .empty := by decide

/-- A sum, each of the two failures (other constants; modulo 4, the case left over), and an empty register. -/
theorem witness_PaddAddsPoints :
    (pointState.pt[(0 : PReg)] = .full pointP ∧ pointState.pt[(4 : PReg)] = .full pointQ ∧
      ecadd pointP pointQ = .ok ⟨⟨0, 7⟩, ⟨0, 7⟩, .onCurve ⟨1, 7⟩ ⟨1, 7⟩⟩) ∧
    (pointState.pt[(5 : PReg)] = inf 11 ∧ ¬(pointP.a = (⟨0, 11⟩ : FE) ∧ pointP.b = (⟨0, 11⟩ : FE))) ∧
    ecadd ⟨⟨0, 4⟩, ⟨0, 4⟩, .onCurve ⟨0, 4⟩ ⟨0, 4⟩⟩ ⟨⟨0, 4⟩, ⟨0, 4⟩, .onCurve ⟨0, 4⟩ ⟨2, 4⟩⟩ = .error .internal ∧
    (pointP.Lawful ∧ pointQ.Lawful ∧ pointP.a.prime.Prime) ∧ pointState.pt[(15 : PReg)] = .empty :=
  ⟨by decide, by decide, by decide, ⟨lawful_pointP, lawful_pointQ, prime_seven⟩, by decide⟩

theorem witness_PaddCompletesForPrimes :
    pointState.pt[(0 : PReg)] = .full pointP ∧ pointState.pt[(4 : PReg)] = .full pointQ ∧
    pointP.Lawful ∧ pointQ.Lawful ∧ pointP.a = pointQ.a ∧ pointP.b = pointQ.b ∧ pointP.a.prime.Prime :=
  ⟨by decide, by decide, lawful_pointP, lawful_pointQ, rfl, rfl, prime_seven⟩

theorem witness_PeqComparesPoints :
    pointState.pt[(0 : PReg)] = .full pointP ∧ pointState.pt[(1 : PReg)] = .full pointO ∧
    pointState.pt[(15 : PReg)] = .empty := by decide

theorem witness_PgetReadsThePointOut :
    pointState.pt[(1 : PReg)] = inf 7 ∧ pointState.pt[(0 : PReg)] = pt 0 1 6 7 ∧
    pointState.pt[(15 : PReg)] = .empty := by decide

/-- A multiple, a lawful point over a prime, an Internal end (modulo 4), an empty register. -/
theorem witness_PmulMultipliesByTheDataInput :
    ((inFlight pointState 0x22600000#32 2 0).port = .busy ⟨0x22600000#32, 2, 0⟩ ∧
      (inFlight pointState 0x22600000#32 2 0).pt[(0 : PReg)] = .full pointP ∧
      ecmul pointP 2 = .ok ⟨⟨0, 7⟩, ⟨0, 7⟩, .onCurve ⟨2, 7⟩ ⟨6, 7⟩⟩) ∧
    (pointP.Lawful ∧ pointP.a.prime.Prime) ∧
    ((withPT State.reset 3 0 1 1 4).pt[(3 : PReg)] = pt 0 1 1 4 ∧
      ecmul ⟨⟨0, 4⟩, ⟨0, 4⟩, .onCurve ⟨1, 4⟩ ⟨1, 4⟩⟩ 2 = .error .internal) ∧
    (inFlight pointState 0x22600000#32 2 0).pt[(15 : PReg)] = .empty :=
  ⟨by decide, ⟨lawful_pointP, prime_seven⟩, by decide, by decide⟩

/-- The frame: registers that are no destination, for an instruction with a destination in each file and for one without;
STAT, and an instruction that is not STAT. -/
theorem witness_OnlyTheDestinationIsWritten :
    (Instr.fadd 1 2 3).destF ≠ some 2 ∧ (Instr.fadd 1 2 3).destPT ≠ some 1 ∧
    (Instr.padd 1 2 3).destPT ≠ some 2 ∧ (Instr.pget 0).destPT ≠ some 0 ∧
    Instr.stat = .stat ∧ Instr.fadd 1 2 3 ≠ .stat := by decide

/-- A command in flight that fails, and a word that is no command. -/
theorem witness_FailuresArePrecise :
    (∃ (t : State) (r : Response), step (inFlight fieldState 0x180A0000#32 0 0) = .next t ∧ t.port = .done r ∧
      r.status ≠ .ok) ∧
    (∃ (t : State) (r : Response), step (inFlight fieldState 0#32 0 0) = .next t ∧ t.port = .done r ∧
      r.status ≠ .ok) :=
  ⟨⟨_, _, rfl, rfl, by decide⟩, ⟨_, _, rfl, rfl, by decide⟩⟩

/-- A command that succeeds, one that fails, and STAT. -/
theorem witness_StatusFollowsTheResponse :
    (∃ (t : State) (r : Response), step (inFlight fieldState 0x18000000#32 0 0) = .next t ∧ t.port = .done r ∧
      decode 0x18000000#32 ≠ some .stat) ∧
    (∃ (t : State) (r : Response), step (inFlight fieldState 0x180A0000#32 0 0) = .next t ∧ t.port = .done r ∧
      r.status ≠ .ok) ∧
    (∃ (t : State) (r : Response), step (inFlight fieldState 0x01000000#32 0 0) = .next t ∧ t.port = .done r ∧
      decode 0x01000000#32 = some .stat) :=
  ⟨⟨_, _, rfl, rfl, by decide⟩, ⟨_, _, rfl, rfl, by decide⟩, ⟨_, _, rfl, rfl, by decide⟩⟩

theorem witness_OnlyListedStatusesAreAnswered :
    ∃ (t : State) (r : Response), exec (.fdiv 0 0 2) fieldState = .next t ∧ t.port = .done r := ⟨_, _, rfl, rfl⟩

/-- A word that is no command; an empty source in each file; for FDIV, and for PNEW with one and with two coordinates, two
failures at once; for PADD points of different curves. -/
theorem witness_ChecksComeInTheirOrder :
    ((inFlight fieldState 0#32 0 0).port = .busy ⟨0#32, 0, 0⟩ ∧ (inFlight fieldState 0#32 0 0).edge.rst = false ∧
      decode 0#32 = none) ∧
    (∃ j ∈ (Instr.pnewX 0 0 0 10).sourcesF, fieldState.f[j] = .empty) ∧
    (∃ j ∈ (Instr.peq 0 15).sourcesPT, pointState.pt[j] = .empty) ∧
    ((withF fieldState 4 0 11).f[(0 : FReg)] = fe 5 7 ∧ (withF fieldState 4 0 11).f[(4 : FReg)] = fe 0 11 ∧
      7 ≠ 11) ∧
    (pointState.f[(0 : FReg)] = fe 0 7 ∧ pointState.f[(4 : FReg)] = fe 1 11 ∧ ¬(7 = 7 ∧ 7 = 11)) ∧
    (¬(7 = 7 ∧ 7 = 7 ∧ 7 = 11) ∧ oncurve 0 0 0 1 7 = false) ∧
    (pointState.pt[(0 : PReg)] = .full pointP ∧ pointState.pt[(5 : PReg)] = inf 11 ∧
      ¬(pointP.a = (⟨0, 11⟩ : FE) ∧ pointP.b = (⟨0, 11⟩ : FE))) := by decide

theorem witness_UnnamedResponseFieldsAreZero :
    ∃ (t : State) (r : Response), exec (.fget 0) fieldState = .next t ∧ t.port = .done r ∧
      (Instr.fget 0).namesFlag = false ∧ (Instr.fget 0).namesDout ≤ (2 : Fin 8).val :=
  ⟨_, _, rfl, rfl, by decide⟩

/-- FPOW uses `din0`, so both runs have the same, and not `din1`, so they may differ. -/
theorem witness_UnusedDataInputsAreIgnored :
    (1 ≤ (Instr.fpow 0 0).usesDin → (2 : Nat) = 2) ∧ (2 ≤ (Instr.fpow 0 0).usesDin → (0 : Nat) = 99) := by decide

theorem witness_ReadsHaveNoSideEffect :
    ((Instr.fget 0).destF = none ∧ (Instr.fget 0).destPT = none ∧ (Instr.fget 0).statuses.contains .ok = true) ∧
    (Instr.stat.destF = none ∧ Instr.stat.destPT = none ∧ Instr.stat.statuses.contains .ok = true) := by decide

theorem witness_StepRunsTheDecodedInstruction :
    (inFlight fieldState 0x11601000#32 0 0).port = .busy ⟨0x11601000#32, 0, 0⟩ ∧
    (inFlight fieldState 0x11601000#32 0 0).edge.rst = false ∧ decode 0x11601000#32 = some (.fadd 6 0 1) := by decide

/-- Reset at the coming edge with a command in flight, and no reset at the one after it; a command in flight and a response
that is not taken, without reset. -/
theorem witness_ResetAbandonsEverything :
    ({ inFlight fieldState 0x11601000#32 0 0 with
        inputs := [⟨true, false, 0, 0, 0, false⟩] } : State).edge.rst = true ∧
    ({ State.reset with inputs := [] } : State).edge.rst = false ∧
    ((inFlight fieldState 0 0 0).port = .busy ⟨0, 0, 0⟩ ∧ (inFlight fieldState 0 0 0).edge.rst = false) ∧
    (({ State.reset with port := .done ⟨.ok, false, Dout.zero⟩ } : State).edge.rst = false ∧
      ({ State.reset with port := .done ⟨.ok, false, Dout.zero⟩ } : State).edge.rspReady = false) := by decide

/-- A ready block that is offered a command, and one that is not; a command in flight; a response that is taken, and one
that is held. -/
theorem witness_OneCommandAtATime :
    (({ State.reset with inputs := [presentEdge ⟨0, 0, 0⟩] } : State).cmdReady = true ∧
      ({ State.reset with inputs := [presentEdge ⟨0, 0, 0⟩] } : State).edge.cmdValid = true) ∧
    (State.reset.cmdReady = true ∧ State.reset.edge.cmdValid = false) ∧
    ((inFlight State.reset 0 0 0).port = .busy ⟨0, 0, 0⟩ ∧ (inFlight State.reset 0 0 0).edge.rst = false) ∧
    (({ State.reset with port := .done ⟨.ok, false, Dout.zero⟩, inputs := [takeEdge] } : State).edge.rst = false ∧
      ({ State.reset with port := .done ⟨.ok, false, Dout.zero⟩, inputs := [takeEdge] } : State).edge.rspReady = true) ∧
    ({ State.reset with port := .done ⟨.ok, false, Dout.zero⟩ } : State).edge.rspReady = false := by decide

theorem witness_CommandIsAFunctionOfStateAndCommand :
    (inFlight fieldState 0x11601000#32 0 0).port = .busy ⟨0x11601000#32, 0, 0⟩ ∧
    (inFlight fieldState 0x11601000#32 0 0).edge.rst = false := by decide

theorem witness_AnswersComeInOrder : State.reset.port = .idle ∧ fieldState.port = .idle := by decide

/-- A state that meets the invariants at every width: an element, a concrete point and an infinity of modulus 1. -/
def lawfulState : State := withInf (withPT (withF State.reset 0 0 1) 0 0 0 0 1) 1 1

theorem lawfulState_f : ∀ i : FReg, lawfulState.f[i] = .empty ∨ lawfulState.f[i] = fe 0 1 := by decide

theorem lawfulState_pt :
    ∀ i : PReg, lawfulState.pt[i] = .empty ∨ lawfulState.pt[i] = pt 0 0 0 1 ∨ lawfulState.pt[i] = inf 1 := by decide

theorem lawfulState_arch : lawfulState.toArch.Inv where
  fInField i e h := by
    rcases lawfulState_f i with h' | h' <;> rw [h'] at h <;> cases h
    exact Nat.zero_lt_one
  fFits i e h := by
    rcases lawfulState_f i with h' | h' <;> rw [h'] at h <;> cases h
    exact Config.two_le_two_pow_W
  ptLawful i p h := by
    rcases lawfulState_pt i with h' | h' | h' <;> rw [h'] at h <;> cases h <;>
      simp only [Point.Lawful, Coord.Lawful, FE.InField] <;> decide
  ptFits i p h := by
    have : FE.Fits ⟨0, 1⟩ := Config.two_le_two_pow_W
    rcases lawfulState_pt i with h' | h' | h' <;> rw [h'] at h <;> cases h <;> simp [Point.Fits, Coord.Fits, this]

/-- The invariants, with a command in flight whose data inputs fit every width, and a next state. -/
theorem witness_StepKeepsTheInvariants :
    (inFlight lawfulState 0x11000000#32 0 0).Inv ∧
    ∃ t, step (inFlight lawfulState 0x11000000#32 0 0) = .next t :=
  ⟨{ arch := lawfulState_arch
     port := ⟨Config.two_pow_W_pos, Config.two_pow_W_pos⟩
     inputs := by intro e he; cases he
     collected := by intro r hr; cases hr }, ⟨_, rfl⟩⟩

end Sys2Proof.Tests
end

/-! The reset state, register by register (spec/10_state.md R30). -/
namespace Sys2Proof.Machine

@[simp] theorem State.reset_f_getElem (j : FReg) : State.reset.f[j] = .empty := by
  rw [State.reset_f]
  exact Vector.getElem_replicate j.isLt

@[simp] theorem State.reset_pt_getElem (j : PReg) : State.reset.pt[j] = .empty := by
  rw [State.reset_pt]
  exact Vector.getElem_replicate j.isLt

@[simp] theorem Status.code_ok : Status.ok.code = 0#4 := rfl

/-- Settles O48: each register holds what reset puts in every place of its file. -/
theorem resetStateIsEmpty : Obligations.ResetStateIsEmpty :=
  ⟨State.reset_f_getElem, State.reset_pt_getElem, State.reset_status,
    (congrArg Status.code State.reset_status).trans Status.code_ok, State.reset_port⟩

end Sys2Proof.Machine

/-! The pseudo-instructions of the assembly language (spec/30_encoding.md R61). -/
namespace Sys2Proof.Asm

/-- R60: a line's command is fixed by its instruction and its data inputs. -/
theorem assemble_congr {a b : Asm} (hinstr : a.toInstr = b.toInstr) (hdin : a.din = b.din) :
    a.assemble = b.assemble := by
  rw [assemble, assemble, hinstr, hdin]

@[simp] theorem assemble_pinf (pd : PReg) (fa fb : FReg) :
    (pinf pd fa fb).assemble = (pnew pd fa fb none none).assemble :=
  assemble_congr rfl rfl

@[simp] theorem assemble_pdbl (pd pa : PReg) : (pdbl pd pa).assemble = (padd pd pa pa).assemble :=
  assemble_congr rfl rfl

@[simp] theorem assemble_fsqr (fd fa : FReg) : (fsqr fd fa).assemble = (fmul fd fa fa).assemble :=
  assemble_congr rfl rfl

/-- Settles O7: each pseudo-instruction has the instruction and the data inputs of its expansion. -/
theorem pseudoInstructionsExpand : Obligations.PseudoInstructionsExpand :=
  ⟨assemble_pinf, assemble_pdbl, assemble_fsqr⟩

end Sys2Proof.Asm

/-! Decoding of packed fields (spec/30_encoding.md R55): every row fixes the opcode and `cp` of a word, and no two rows fix
the same pair, so the row that accepts a word is the one the decoder finds. -/
namespace Sys2Proof

/-- The two fields every row fixes whole. -/
def Row.key (r : Row) : BitVec 8 × BitVec 4 := ((fieldsOf r.pattern).opcode, (fieldsOf r.pattern).cp)

theorem rows_mask_opcode_cp :
    ∀ r ∈ rows, (fieldsOf r.mask).opcode = BitVec.allOnes 8 ∧ (fieldsOf r.mask).cp = BitVec.allOnes 4 := by
  decide

theorem rows_key_nodup : (rows.map Row.key).Nodup := by decide

/-- A row that accepts a word has the opcode and the `cp` of the word. -/
theorem Row.key_of_accepts {f : Fields} {r : Row} (hr : r ∈ rows)
    (hm : f.and (fieldsOf r.mask) = fieldsOf r.pattern) : r.key = (f.opcode, f.cp) := by
  obtain ⟨hop, hcp⟩ := rows_mask_opcode_cp r hr
  simp only [Row.key, ← hm, Fields.and, hop, hcp, BitVec.and_allOnes]

/-- R55: the decoder finds the row that accepts the word, whichever place it has in the table. -/
theorem decode_wordOf_of_row {f : Fields} {r : Row} (hr : r ∈ rows)
    (hm : f.and (fieldsOf r.mask) = fieldsOf r.pattern) : decode (wordOf f) = some (r.build f) := by
  rw [decode_wordOf]
  cases hfind : rows.find? fun q => decide (f.and (fieldsOf q.mask) = fieldsOf q.pattern) with
  | none => exact absurd hm (by simpa using List.find?_eq_none.mp hfind r hr)
  | some q =>
    have hq : q ∈ rows := List.mem_of_find?_eq_some hfind
    have hqm : f.and (fieldsOf q.mask) = fieldsOf q.pattern := by simpa using List.find?_some hfind
    have hkey : q.key = r.key := (Row.key_of_accepts hq hqm).trans (Row.key_of_accepts hr hm).symm
    rw [List.inj_on_of_nodup_map rows_key_nodup hq hr hkey, Option.map_some]

/-- R55: an instruction's row of the opcode table. -/
def Instr.row : Instr → Row
  | .stat => rows[0]
  | .fnew _ => rows[1]
  | .fadd _ _ _ => rows[2]
  | .fsub _ _ _ => rows[3]
  | .fmul _ _ _ => rows[4]
  | .fpow _ _ => rows[5]
  | .finv _ _ => rows[6]
  | .fdiv _ _ _ => rows[7]
  | .feq _ _ => rows[8]
  | .fget _ => rows[9]
  | .pnewN _ _ _ => rows[10]
  | .pnewY _ _ _ _ => rows[11]
  | .pnewX _ _ _ _ => rows[12]
  | .pnewXY _ _ _ _ _ => rows[13]
  | .padd _ _ _ => rows[14]
  | .pmul _ _ => rows[15]
  | .peq _ _ => rows[16]
  | .pget _ => rows[17]

theorem Instr.row_mem (i : Instr) : i.row ∈ rows := by
  cases i <;> exact List.getElem_mem _

/-- R55: an instruction's row builds it from its own fields. -/
theorem Instr.row_build_fields (i : Instr) : i.row.build i.fields = i := by
  cases i <;> rfl

/-- R55, R56: an instruction's row accepts its fields: the opcode and `cp` are the row's, and an unused field is zero. -/
theorem Instr.row_accepts_fields (i : Instr) : i.fields.and (fieldsOf i.row.mask) = fieldsOf i.row.pattern := by
  cases i <;> rw [row] <;> simp [rows, fieldRows, pointRows, fields, Fields.and, fieldsOf]

/-- Decoding the word of an instruction's fields gives the instruction. -/
theorem decode_wordOf_fields (i : Instr) : decode (wordOf i.fields) = some i := by
  rw [decode_wordOf_of_row i.row_mem i.row_accepts_fields, i.row_build_fields]

end Sys2Proof

/-! The units U1, U2 and U3 in their domain, operands below the modulus (spec/40_field_arithmetic.md R70 to R72). -/
namespace Sys2Proof.Machine

theorem modadd_lt {p : Nat} (a b : Nat) (hp : 0 < p) : modadd a b p < p := Nat.mod_lt _ hp

theorem modmul_lt {p : Nat} (a b : Nat) (hp : 0 < p) : modmul a b p < p := Nat.mod_lt _ hp

/-- R70: one conditional subtraction suffices. -/
theorem modadd_eq_ite {a b p : Nat} (ha : a < p) (hb : b < p) :
    modadd a b p = if a + b < p then a + b else a + b - p := by
  rw [modadd, Nat.add_mod_eq_ite, Nat.mod_eq_of_lt ha, Nat.mod_eq_of_lt hb]
  by_cases h : a + b < p
  · rw [if_pos h, if_neg (by omega)]
  · rw [if_neg h, if_pos (by omega)]

theorem modsub_of_le {a b : Nat} (p : Nat) (h : b ≤ a) : modsub a b p = a - b := if_pos h

theorem modsub_of_lt {a b : Nat} (p : Nat) (h : a < b) : modsub a b p = p - (b - a) := if_neg (Nat.not_le.mpr h)

theorem modsub_lt {a p : Nat} (b : Nat) (ha : a < p) : modsub a b p < p := by
  rcases Nat.lt_or_ge a b with h | h
  · rw [modsub_of_lt p h]; omega
  · rw [modsub_of_le p h]; omega

/-- R71: the difference is the residue of `a + p - b`, which is the difference itself or `p` more. -/
theorem modsub_eq_mod {a b p : Nat} (ha : a < p) (hb : b < p) : modsub a b p = (a + p - b) % p := by
  have hlt := modsub_lt b ha
  rcases Nat.lt_or_ge a b with h | h
  · rw [show a + p - b = modsub a b p by rw [modsub_of_lt p h]; omega, Nat.mod_eq_of_lt hlt]
  · rw [show a + p - b = modsub a b p + p by rw [modsub_of_le p h]; omega, Nat.add_mod_right, Nat.mod_eq_of_lt hlt]

/-- Settles O8: the sum is below `2p`, so one conditional subtraction reduces it. -/
theorem modularAdderIsResidueOfSum : Obligations.ModularAdderIsResidueOfSum :=
  fun a b _p ha hb => ⟨rfl, modadd_lt a b (Nat.zero_lt_of_lt ha), by omega, modadd_eq_ite ha hb⟩

/-- Settles O9, by the order of the operands. -/
theorem modularSubtractorIsFieldDifference : Obligations.ModularSubtractorIsFieldDifference := by
  intro a b p ha hb
  refine ⟨modsub_of_le p, fun h => ?_, modsub_lt b ha, modsub_eq_mod ha hb⟩
  have hsub := modsub_of_lt p h
  exact ⟨hsub, by omega, by omega, by omega⟩

/-- Settles O10: a residue is below a positive modulus. -/
theorem modularMultiplierIsResidueOfProduct : Obligations.ModularMultiplierIsResidueOfProduct :=
  fun a b _p ha _hb => ⟨rfl, modmul_lt a b (Nat.zero_lt_of_lt ha)⟩

end Sys2Proof.Machine

/-! The equalities of elements, coordinate states and points decide equality of the data (spec/40_field_arithmetic.md R73,
spec/42_point_arithmetic.md R101). -/
namespace Sys2Proof.Machine

theorem FE.eqv_iff_fields (e1 e2 : FE) : e1.eqv e2 = true ↔ e1.value = e2.value ∧ e1.prime = e2.prime := by
  simp [FE.eqv]

@[simp] theorem FE.eqv_iff (e1 e2 : FE) : e1.eqv e2 = true ↔ e1 = e2 := by
  cases e1; cases e2
  rw [FE.eqv_iff_fields, FE.mk.injEq]

/-- R101: an infinity never equals a concrete coordinate state. -/
theorem Coord.eqv_iff_cases (c d : Coord) : c.eqv d = true ↔
    (c = .infinity ∧ d = .infinity) ∨
      ∃ x1 y1 x2 y2, c = .onCurve x1 y1 ∧ d = .onCurve x2 y2 ∧ x1.eqv x2 = true ∧ y1.eqv y2 = true := by
  cases c <;> cases d <;> simp [Coord.eqv]

@[simp] theorem Coord.eqv_iff (c d : Coord) : c.eqv d = true ↔ c = d := by
  cases c <;> cases d <;> simp [Coord.eqv]

@[simp] theorem sameCurve_iff (p q : Point) : sameCurve p q = true ↔ p.a = q.a ∧ p.b = q.b := by
  simp [sameCurve]

theorem Point.eqv_iff_parts (p q : Point) :
    p.eqv q = true ↔ p.a.eqv q.a = true ∧ p.b.eqv q.b = true ∧ p.c.eqv q.c = true := by
  simp [Point.eqv, sameCurve, and_assoc]

@[simp] theorem Point.eqv_iff (p q : Point) : p.eqv q = true ↔ p = q := by
  cases p; cases q
  simp [Point.eqv_iff_parts]

/-- Settles O15: the cases of two coordinate states, then the parts of two points. -/
theorem equalityOfElementsAndPoints : Obligations.EqualityOfElementsAndPoints :=
  ⟨FE.eqv_iff_fields, fun p q => by rw [Point.eqv_iff_parts, Coord.eqv_iff_cases], Point.eqv_iff⟩

end Sys2Proof.Machine

/-! How a command's rule ends: what `commit` leaves, and the rules of two sources (spec/30_encoding.md R59,
spec/60_exceptions.md R142 to R144). -/
namespace Sys2Proof.Machine

theorem Dout.zero_eq : Dout.zero = #v[0, 0, 0, 0, 0, 0, 0, 0] := rfl

theorem State.commit_failed (s : State) (st : Status) : s.commit (.error st) = s.failed st := rfl

theorem State.commit_toF (s : State) (fd : FReg) (v : FE) : s.commit (.ok { write := .toF fd v }) = s.wroteF fd v := rfl

theorem State.commit_shown (s : State) (flag : Bool) (dout : Dout) :
    s.commit (.ok { flag := flag, dout := dout }) = s.showed flag dout := rfl

/-- R59, R142: a rule that reads two registers ends `EmptyRegister` if either is empty, whatever it would go on to do. -/
theorem State.readF_two_empty {α : Type} {s : State} {fa fb : FReg} (h : s.f[fa] = .empty ∨ s.f[fb] = .empty)
    (k : FE → FE → Except Status α) :
    (s.readF fa >>= fun a => s.readF fb >>= k a) = .error .emptyRegister := by
  rcases Slot.empty_or_full s.f[fa] with ha | ⟨a, ha⟩
  · rw [State.readF_empty ha, Except.error_bind]
  · have hb : s.f[fb] = .empty := h.resolve_left (by simp [ha])
    rw [State.readF_full ha, Except.ok_bind, State.readF_empty hb, Except.error_bind]

/-- R59: a rule that reads two full registers goes on with their elements. -/
theorem State.readF_two_full {α : Type} {s : State} {fa fb : FReg} {a b : FE} (ha : s.f[fa] = .full a)
    (hb : s.f[fb] = .full b) (k : FE → FE → Except Status α) :
    (s.readF fa >>= fun a => s.readF fb >>= k a) = k a b := by
  rw [State.readF_full ha, Except.ok_bind, State.readF_full hb, Except.ok_bind]

end Sys2Proof.Machine

/-! The commands FNEW, FADD, FSUB, FMUL, FEQ and FGET (spec/40_field_arithmetic.md R74 to R79). -/
namespace Sys2Proof.Machine

/-- Settles O25: the check of the data inputs decides. -/
theorem fnewConstructsInRange : Obligations.FnewConstructsInRange := by
  intro s c fd hport
  refine ⟨decode_wordOf_fields (.fnew fd), fun h => ?_, fun h => ?_⟩
  · rw [exec_eq_commit _ _ (by simp), ← State.commit_toF]
    simp [ruleOf, State.din0_busy hport, State.din1_busy hport, h]
  · rw [exec_eq_commit _ _ (by simp), ← State.commit_failed]
    simp [ruleOf, State.din0_busy hport, State.din1_busy hport, Nat.not_lt.mpr h]

/-- The shape of R75 to R77: what an instruction does whose rule is `binaryField` of a unit. -/
theorem exec_binaryField {i : Instr} {unit : Nat → Nat → Nat → Nat} {fd fa fb : FReg} (s : State)
    (hexec : exec i s = .next (s.commit (binaryField unit fd fa fb s))) :
    (∀ a b, s.f[fa] = .full a → s.f[fb] = .full b → a.prime = b.prime →
      exec i s = .next (s.wroteF fd ⟨unit a.value b.value a.prime, a.prime⟩)) ∧
    (∀ a b, s.f[fa] = .full a → s.f[fb] = .full b → a.prime ≠ b.prime →
      exec i s = .next (s.failed .fieldMismatch)) ∧
    (s.f[fa] = .empty ∨ s.f[fb] = .empty → exec i s = .next (s.failed .emptyRegister)) := by
  rw [hexec]
  refine ⟨fun a b ha hb hp => ?_, fun a b ha hb hp => ?_, fun h => ?_⟩
  · rw [binaryField, State.readF_two_full ha hb, beq_iff_eq.mpr hp, require_true, Except.ok_bind,
      Except.pure_eq_ok, State.commit_toF]
  · rw [binaryField, State.readF_two_full ha hb, beq_eq_false_iff_ne.mpr hp, require_false, Except.error_bind,
      State.commit_failed]
  · rw [binaryField, State.readF_two_empty h, State.commit_failed]

/-- Settles O26: its rule is `binaryField` of unit U1. -/
theorem faddAddsInTheField : Obligations.FaddAddsInTheField :=
  fun s fd fa fb => ⟨decode_wordOf_fields (.fadd fd fa fb), exec_binaryField (unit := modadd) s rfl⟩

/-- Settles O27: its rule is `binaryField` of unit U2. -/
theorem fsubSubtractsInTheField : Obligations.FsubSubtractsInTheField :=
  fun s fd fa fb => ⟨decode_wordOf_fields (.fsub fd fa fb), exec_binaryField (unit := modsub) s rfl⟩

/-- Settles O28: its rule is `binaryField` of unit U3. -/
theorem fmulMultipliesInTheField : Obligations.FmulMultipliesInTheField :=
  fun s fd fa fb => ⟨decode_wordOf_fields (.fmul fd fa fb), exec_binaryField (unit := modmul) s rfl⟩

/-- R73, R78: the flag of FEQ decides equality of the elements. -/
theorem feqFlag_eq_decide (a b : FE) : feqFlag a b = decide (a = b) := by
  rw [Bool.eq_iff_iff, decide_eq_true_iff]
  exact FE.eqv_iff a b

/-- Settles O29, by whether both sources are full. -/
theorem feqComparesValueAndPrime : Obligations.FeqComparesValueAndPrime := by
  intro s fa fb
  refine ⟨decode_wordOf_fields (.feq fa fb), fun a b ha hb => ?_, fun h => ?_⟩
  · rw [exec_eq_commit _ _ (by simp), ruleOf, State.readF_two_full ha hb, Except.pure_eq_ok, State.commit_shown,
      feqFlag_eq_decide, Dout.zero_eq]
  · rw [exec_eq_commit _ _ (by simp), ruleOf, State.readF_two_empty h, State.commit_failed]

/-- Settles O30, by whether the source is full. -/
theorem fgetReadsTheElementOut : Obligations.FgetReadsTheElementOut := by
  intro s fa
  refine ⟨decode_wordOf_fields (.fget fa), fun a ha => ?_, fun h => ?_⟩
  · rw [exec_eq_commit _ _ (by simp), ruleOf, State.readF_full ha, Except.ok_bind, Except.pure_eq_ok, State.commit_shown,
      fgetDout]
  · rw [exec_eq_commit _ _ (by simp), ruleOf, State.readF_empty h, Except.error_bind, State.commit_failed]

end Sys2Proof.Machine

/-! Unit U4, exponentiation and inversion (spec/41_field_inversion.md R90 to R92). -/
namespace Sys2Proof.Machine

/-- R91: the Fermat power, literally. -/
theorem modinv_eq (b p : Nat) : modinv b p = b ^ (p - 2) % p := rfl

/-- R92: multiplication by the Fermat power, literally. -/
theorem moddiv_eq (a b p : Nat) : moddiv a b p = a * (b ^ (p - 2) % p) % p := rfl

/-- R91: an element times its Fermat power has the exponent of Fermat's little theorem, for every modulus from 2. -/
theorem modmul_modinv_eq_modpow (b : Nat) {p : Nat} (hp : 2 ≤ p) : modmul b (modinv b p) p = modpow b (p - 1) p :=
  calc b * (b ^ (p - 2) % p) % p
    _ = b * b ^ (p - 2) % p := Nat.mul_mod_mod ..
    _ = b ^ (p - 2 + 1) % p := by rw [Nat.pow_succ']
    _ = b ^ (p - 1) % p := by rw [show p - 2 + 1 = p - 1 by omega]

/-- R91: over a prime the Fermat power of a nonzero element is its inverse. -/
theorem modmul_modinv_of_prime {b p : Nat} (hp : p.Prime) (hlt : b < p) (hb : b ≠ 0) : modmul b (modinv b p) p = 1 := by
  have hcoprime : b.Coprime p := (Nat.coprime_of_lt_prime hb hlt hp).symm
  have hfermat : b ^ (p - 1) % p = 1 % p := Nat.ModEq.pow_card_sub_one_eq_one hp hcoprime
  rw [modmul_modinv_eq_modpow b hp.two_le, modpow, hfermat, Nat.mod_eq_of_lt hp.one_lt]

/-- Settles O13, by Fermat's little theorem; the examples with a composite modulus are the formula evaluated (D12). -/
theorem fermatInversion : Obligations.FermatInversion :=
  ⟨fun b p _ _ => ⟨by omega, rfl⟩, fun _ _ => modmul_modinv_of_prime, by decide⟩

end Sys2Proof.Machine

/-! The commands FPOW, FINV and FDIV (spec/41_field_inversion.md R93 to R95). -/
namespace Sys2Proof.Machine

/-- Settles O31: the exponent is the first data input of the command in flight. -/
theorem fpowRaisesToTheDataInput : Obligations.FpowRaisesToTheDataInput := by
  intro s c fd fa hport
  refine ⟨decode_wordOf_fields (.fpow fd fa), fun a ha => ?_, fun h => ?_⟩
  · rw [exec_eq_commit _ _ (by simp), ruleOf, State.readF_full ha, Except.ok_bind, Except.pure_eq_ok, State.commit_toF,
      State.din0_busy hport, modpow]
  · rw [exec_eq_commit _ _ (by simp), ruleOf, State.readF_empty h, Except.error_bind, State.commit_failed]

/-- Settles O32: the source is read, then tested for 0. -/
theorem finvIsTheFermatPower : Obligations.FinvIsTheFermatPower := by
  intro s fd fb
  refine ⟨decode_wordOf_fields (.finv fd fb), fun b hb hne => ?_, fun b hb hz => ?_, fun h => ?_⟩
  · rw [exec_eq_commit _ _ (by simp), ruleOf, State.readF_full hb, Except.ok_bind, bne_iff_ne.mpr hne, require_true,
      Except.ok_bind, Except.pure_eq_ok, State.commit_toF, modinv_eq]
  · rw [exec_eq_commit _ _ (by simp), ruleOf, State.readF_full hb, Except.ok_bind, bne_eq_false_iff_eq.mpr hz,
      require_false, Except.error_bind, State.commit_failed]
  · rw [exec_eq_commit _ _ (by simp), ruleOf, State.readF_empty h, Except.error_bind, State.commit_failed]

/-- Settles O33: the sources are read, their primes compared, and only then the divisor tested for 0. -/
theorem fdivMultipliesByTheFermatInverse : Obligations.FdivMultipliesByTheFermatInverse := by
  intro s fd fa fb
  have hexec := exec_eq_commit (.fdiv fd fa fb) s (by simp)
  refine ⟨decode_wordOf_fields (.fdiv fd fa fb), fun a b ha hb hp hne => ?_, fun a b ha hb hp => ?_,
    fun a b ha hb hp hz => ?_, fun h => ?_⟩
  · rw [hexec, ruleOf, State.readF_two_full ha hb, beq_iff_eq.mpr hp, require_true, Except.ok_bind, bne_iff_ne.mpr hne,
      require_true, Except.ok_bind, Except.pure_eq_ok, State.commit_toF, moddiv_eq]
  · rw [hexec, ruleOf, State.readF_two_full ha hb, beq_eq_false_iff_ne.mpr hp, require_false, Except.error_bind,
      State.commit_failed]
  · rw [hexec, ruleOf, State.readF_two_full ha hb, beq_iff_eq.mpr hp, require_true, Except.ok_bind,
      bne_eq_false_iff_eq.mpr hz, require_false, Except.error_bind, State.commit_failed]
  · rw [hexec, ruleOf, State.readF_two_empty h, State.commit_failed]

end Sys2Proof.Machine

/-! Curve membership as the equation over the residues (spec/42_point_arithmetic.md R100). -/
namespace Sys2Proof.Machine

/-- R100: nested reductions keep the residues of both sides. -/
theorem oncurve_iff_modEq (a b x y p : Nat) :
    oncurve a b x y p = true ↔ y * y ≡ x * x * x + a * x + b [MOD p] := by
  simp only [oncurve, modmul, modadd, beq_iff_eq, Nat.ModEq, Nat.mod_mul_mod, Nat.add_mod_mod, Nat.mod_add_mod]

/-- Settles O16: the operands need not be below the modulus. -/
theorem curveMembershipIsTheEquation : Obligations.CurveMembershipIsTheEquation :=
  fun a b x y p _ _ _ _ => oncurve_iff_modEq a b x y p

theorem oncurve_iff_zmod (a b x y p : Nat) :
    oncurve a b x y p = true ↔ (y : ZMod p) ^ 2 = (x : ZMod p) ^ 3 + a * x + b := by
  rw [oncurve_iff_modEq, ← ZMod.natCast_eq_natCast_iff]
  push_cast
  rw [pow_two, pow_three', mul_assoc]

end Sys2Proof.Machine

/-! The units U1 to U4 in `ZMod p`: each computes the operation of the ring, and over a prime U4 divides
(spec/40_field_arithmetic.md R70 to R72, spec/41_field_inversion.md R92). -/
namespace Sys2Proof.Machine

@[simp] theorem natCast_modadd (a b p : Nat) : (modadd a b p : ZMod p) = a + b := by
  rw [modadd, ZMod.natCast_mod, Nat.cast_add]

@[simp] theorem natCast_modmul (a b p : Nat) : (modmul a b p : ZMod p) = a * b := by
  rw [modmul, ZMod.natCast_mod, Nat.cast_mul]

theorem natCast_modsub (a : Nat) {b p : Nat} (hb : b ≤ p) : (modsub a b p : ZMod p) = a - b := by
  rcases Nat.lt_or_ge a b with h | h
  · rw [modsub_of_lt p h, Nat.cast_sub (by omega), Nat.cast_sub h.le, ZMod.natCast_self, zero_sub, neg_sub]
  · rw [modsub_of_le p h, Nat.cast_sub h]

/-- Elements of the field are equal when their residues are. -/
theorem natCast_zmod_inj {a b p : Nat} (ha : a < p) (hb : b < p) : (a : ZMod p) = b ↔ a = b := by
  rw [ZMod.natCast_eq_natCast_iff', Nat.mod_eq_of_lt ha, Nat.mod_eq_of_lt hb]

/-- R92: over a prime, the quotient times a nonzero divisor is the dividend. -/
theorem natCast_moddiv_mul (a : Nat) {b p : Nat} (hp : p.Prime) (hlt : b < p) (hb : b ≠ 0) :
    (moddiv a b p : ZMod p) * b = a := by
  have hinv : (b : ZMod p) * modinv b p = 1 := by
    rw [← natCast_modmul, modmul_modinv_of_prime hp hlt hb, Nat.cast_one]
  rw [moddiv, natCast_modmul, mul_assoc, mul_comm (modinv b p : ZMod p), hinv, mul_one]

theorem modsub_ne_zero {a b p : Nat} (hb : b < p) (hne : a ≠ b) : modsub a b p ≠ 0 := by
  rcases Nat.lt_or_ge a b with h | h
  · rw [modsub_of_lt p h]; omega
  · rw [modsub_of_le p h]; omega

end Sys2Proof.Machine

/-! Point addition over a prime modulus: every line `ecadd` draws meets the curve in a third point, and the case left over
at the end of its steps cannot arise (spec/42_point_arithmetic.md R102, section 3). -/
namespace Sys2Proof.Machine

/-- The line of slope `s` through the point `(x1, y1)` of `y² = x³ + a·x + b` meets the curve again at `x2`: with the line
put in for `y`, the equation divided by `x - x1` has the root `x2`. For `x2 = x1` the line is the tangent. -/
def LineMeetsAgain {R : Type} [CommRing R] (a x1 y1 x2 s : R) : Prop :=
  x1 ^ 2 + x1 * x2 + x2 ^ 2 + a = s ^ 2 * (x2 - x1) + 2 * s * y1

/-- R102 step 5: the three places where a line meets the curve sum to the square of its slope. -/
theorem thirdPoint_on_curve {R : Type} [CommRing R] {a b x1 y1 x2 s : R} (h1 : y1 ^ 2 = x1 ^ 3 + a * x1 + b)
    (hline : LineMeetsAgain a x1 y1 x2 s) :
    (s * (x1 - (s * s - x1 - x2)) - y1) ^ 2 = (s * s - x1 - x2) ^ 3 + a * (s * s - x1 - x2) + b := by
  rw [LineMeetsAgain] at hline
  linear_combination h1 - (s * s - 2 * x1 - x2) * hline

/-- R102 step 5: a line that meets the curve at both points passes the check of the third one. -/
theorem thirdPoint_ok {P : Point} {x1 y1 x2 s p : Nat} (hx1 : x1 < p) (hy1 : y1 < p) (hx2 : x2 < p)
    (h1 : oncurve P.a.value P.b.value x1 y1 p = true)
    (hline : LineMeetsAgain (P.a.value : ZMod p) x1 y1 x2 s) : ∃ r, thirdPoint P x1 y1 x2 s p = .ok r := by
  refine ⟨_, if_pos ?_⟩
  have hx3 : modsub (modsub (modmul s s p) x1 p) x2 p < p :=
    modsub_lt x2 (modsub_lt x1 (modmul_lt s s (Nat.zero_lt_of_lt hx1)))
  rw [oncurve_iff_zmod, natCast_modsub _ hy1.le, natCast_modmul, natCast_modsub _ hx3.le, natCast_modsub _ hx2.le,
    natCast_modsub _ hx1.le, natCast_modmul]
  exact thirdPoint_on_curve ((oncurve_iff_zmod ..).mp h1) hline

/-- R102 step 3: over a prime the doubling slope is the tangent's. -/
theorem doublingSlope_meets {a x1 y1 p : Nat} (hp : p.Prime) (hden : modadd y1 y1 p ≠ 0) :
    LineMeetsAgain (a : ZMod p) x1 y1 x1 (doublingSlope a x1 y1 p) := by
  have hs : (doublingSlope a x1 y1 p : ZMod p) * (y1 + y1) = x1 * x1 + x1 * x1 + x1 * x1 + a := by
    rw [← natCast_modadd y1 y1, doublingSlope, natCast_moddiv_mul _ hp (modadd_lt y1 y1 hp.pos) hden]
    simp only [natCast_modadd, natCast_modmul]
  rw [LineMeetsAgain]
  linear_combination -hs

/-- R102 step 4: over a prime the chord through two points of the curve meets it at both. -/
theorem chordSlope_meets {a b x1 y1 x2 y2 p : Nat} (hp : p.Prime) (hx1 : x1 < p) (hy1 : y1 < p) (hx2 : x2 < p)
    (hne : x1 ≠ x2) (h1 : oncurve a b x1 y1 p = true) (h2 : oncurve a b x2 y2 p = true) :
    LineMeetsAgain (a : ZMod p) x1 y1 x2 (chordSlope x1 y1 x2 y2 p) := by
  have : Fact p.Prime := ⟨hp⟩
  have hs : (chordSlope x1 y1 x2 y2 p : ZMod p) * (x2 - x1) = y2 - y1 := by
    rw [← natCast_modsub x2 hx1.le, chordSlope,
      natCast_moddiv_mul _ hp (modsub_lt x1 hx2) (modsub_ne_zero hx1 hne.symm), natCast_modsub y2 hy1.le]
  have hdx : (x2 - x1 : ZMod p) ≠ 0 := sub_ne_zero.mpr ((natCast_zmod_inj hx2 hx1).not.mpr hne.symm)
  rw [oncurve_iff_zmod] at h1 h2
  refine mul_right_cancel₀ hdx ?_
  linear_combination h1 - h2 - ((chordSlope x1 y1 x2 y2 p : ZMod p) * (x2 - x1) + (y2 - y1) + 2 * y1) * hs

/-- R102: over a prime, different points of the curve with one `x` are inverse to each other. -/
theorem modadd_eq_zero_of_same_x {a b x y1 y2 p : Nat} (hp : p.Prime) (hy1 : y1 < p) (hy2 : y2 < p) (hne : y1 ≠ y2)
    (h1 : oncurve a b x y1 p = true) (h2 : oncurve a b x y2 p = true) : modadd y1 y2 p = 0 := by
  have : Fact p.Prime := ⟨hp⟩
  have hsq : (y1 : ZMod p) ^ 2 = (y2 : ZMod p) ^ 2 :=
    ((oncurve_iff_zmod ..).mp h1).trans ((oncurve_iff_zmod ..).mp h2).symm
  have hneg : (y1 : ZMod p) = -y2 :=
    (sq_eq_sq_iff_eq_or_eq_neg.mp hsq).resolve_left ((natCast_zmod_inj hy1 hy2).not.mpr hne)
  rw [← natCast_zmod_inj (modadd_lt y1 y2 hp.pos) hp.pos, natCast_modadd, hneg, neg_add_cancel, Nat.cast_zero]

/-- R102 steps 2 to 5: over a prime, two points of a curve have a sum. -/
theorem addConcrete_ok_of_prime {P : Point} {x1 y1 x2 y2 p : Nat} (hp : p.Prime) (hx1 : x1 < p) (hy1 : y1 < p)
    (hx2 : x2 < p) (hy2 : y2 < p) (h1 : oncurve P.a.value P.b.value x1 y1 p = true)
    (h2 : oncurve P.a.value P.b.value x2 y2 p = true) : ∃ r, addConcrete P x1 y1 x2 y2 p = .ok r := by
  unfold addConcrete
  split_ifs with hvertical hdouble hchord
  · exact ⟨_, rfl⟩
  · obtain ⟨rfl, rfl⟩ := hdouble
    exact thirdPoint_ok hx1 hy1 hx1 h1 (doublingSlope_meets hp fun hden => hvertical ⟨rfl, hden⟩)
  · exact thirdPoint_ok hx1 hy1 hx2 h1 (chordSlope_meets hp hx1 hy1 hx2 hchord h1 h2)
  · obtain rfl : x1 = x2 := not_not.mp hchord
    have hne : y1 ≠ y2 := fun h => hdouble ⟨rfl, h⟩
    exact absurd ⟨rfl, modadd_eq_zero_of_same_x hp hy1 hy2 hne h1 h2⟩ hvertical

/-- R102 step 0: points of different curves are not added. -/
theorem ecadd_of_different_curves {p q : Point} (h : ¬(p.a = q.a ∧ p.b = q.b)) : ecadd p q = .error .fieldMismatch :=
  if_neg ((sameCurve_iff p q).not.mpr h)

/-- R102 step 1: the infinity of a curve is the identity on the left. -/
theorem ecadd_infinity_left (a b : FE) (d : Coord) : ecadd ⟨a, b, .infinity⟩ ⟨a, b, d⟩ = .ok ⟨a, b, d⟩ :=
  if_pos ((sameCurve_iff _ _).mpr ⟨rfl, rfl⟩)

/-- R102 step 1: the infinity of a curve is the identity on the right. -/
theorem ecadd_infinity_right (a b : FE) (c : Coord) : ecadd ⟨a, b, c⟩ ⟨a, b, .infinity⟩ = .ok ⟨a, b, c⟩ := by
  refine (if_pos ((sameCurve_iff _ _).mpr ⟨rfl, rfl⟩)).trans ?_
  cases c <;> rfl

/-- R102: two concrete points of one curve go through steps 2 to 5. -/
theorem ecadd_onCurve (a b x1 y1 x2 y2 : FE) :
    ecadd ⟨a, b, .onCurve x1 y1⟩ ⟨a, b, .onCurve x2 y2⟩ =
      addConcrete ⟨a, b, .onCurve x1 y1⟩ x1.value y1.value x2.value y2.value a.prime :=
  if_pos ((sameCurve_iff _ _).mpr ⟨rfl, rfl⟩)

/-- R102: everything `ecadd` can do, by the curve constants and the coordinate states. -/
theorem ecadd_cases (p q : Point) :
    (¬(p.a = q.a ∧ p.b = q.b) ∧ ecadd p q = .error .fieldMismatch) ∨
    (p.a = q.a ∧ p.b = q.b) ∧
      ((p.c = .infinity ∧ ecadd p q = .ok q) ∨ (q.c = .infinity ∧ ecadd p q = .ok p) ∨
        ∃ x1 y1 x2 y2, p.c = .onCurve x1 y1 ∧ q.c = .onCurve x2 y2 ∧
          ecadd p q = addConcrete p x1.value y1.value x2.value y2.value p.a.prime) := by
  by_cases hcurve : p.a = q.a ∧ p.b = q.b
  · refine .inr ⟨hcurve, ?_⟩
    obtain ⟨a, b, c⟩ := p
    obtain ⟨_, _, d⟩ := q
    obtain ⟨rfl, rfl⟩ : a = _ ∧ b = _ := hcurve
    cases c with
    | infinity => exact .inl ⟨rfl, ecadd_infinity_left a b d⟩
    | onCurve x1 y1 =>
      cases d with
      | infinity => exact .inr (.inl ⟨rfl, ecadd_infinity_right a b _⟩)
      | onCurve x2 y2 => exact .inr (.inr ⟨x1, y1, x2, y2, rfl, rfl, ecadd_onCurve a b x1 y1 x2 y2⟩)
  · exact .inl ⟨hcurve, ecadd_of_different_curves hcurve⟩

/-- R25 (I-P1, I-P2), read at the prime of `a`: the coordinates are in the field and on the curve. -/
theorem Point.Lawful.coords {p : Point} {x y : FE} (h : p.Lawful) (hc : p.c = .onCurve x y) :
    x.value < p.a.prime ∧ y.value < p.a.prime ∧ oncurve p.a.value p.b.value x.value y.value p.a.prime = true := by
  obtain ⟨-, -, hcoords⟩ := h
  rw [hc] at hcoords
  obtain ⟨hx, hy, hab, hbx, hxy, hcurve⟩ := hcoords
  have hax : p.a.prime = x.prime := hab.trans hbx
  exact ⟨hax ▸ hx, hax.trans hxy ▸ hy, hcurve⟩

/-- R102, section 3: over a prime, two lawful points of one curve have a sum. -/
theorem ecadd_ok_of_prime {p q : Point} (hp : p.Lawful) (hq : q.Lawful) (ha : p.a = q.a) (hb : p.b = q.b)
    (hprime : p.a.prime.Prime) : ∃ r, ecadd p q = .ok r := by
  rcases ecadd_cases p q with ⟨hcurve, -⟩ | ⟨-, ⟨-, h⟩ | ⟨-, h⟩ | ⟨x1, y1, x2, y2, hpc, hqc, h⟩⟩
  · exact absurd ⟨ha, hb⟩ hcurve
  · exact ⟨q, h⟩
  · exact ⟨p, h⟩
  · obtain ⟨hx1, hy1, h1⟩ := hp.coords hpc
    obtain ⟨hx2, hy2, h2⟩ := hq.coords hqc
    rw [← ha, ← hb] at h2
    rw [h]
    exact addConcrete_ok_of_prime hprime hx1 hy1 (ha ▸ hx2) (ha ▸ hy2) h1 h2

/-- R104: over a prime, lawful points are not added to `Internal`, be they of one curve or not. -/
theorem ecadd_ne_internal_of_prime {p q : Point} (hp : p.Lawful) (hq : q.Lawful) (hprime : p.a.prime.Prime) :
    ecadd p q ≠ .error .internal := by
  by_cases hcurve : p.a = q.a ∧ p.b = q.b
  · obtain ⟨r, hr⟩ := ecadd_ok_of_prime hp hq hcurve.1 hcurve.2 hprime
    simp [hr]
  · simp [ecadd_of_different_curves hcurve]

end Sys2Proof.Machine

/-! The two statuses of `ecadd` (spec/42_point_arithmetic.md R102). -/
namespace Sys2Proof.Machine

theorem thirdPoint_eq_error {P : Point} {x1 y1 x2 s p : Nat} {st : Status}
    (h : thirdPoint P x1 y1 x2 s p = .error st) : st = .internal := by
  simp only [thirdPoint] at h
  split_ifs at h
  exact (Except.error.inj h).symm

theorem addConcrete_eq_error {P : Point} {x1 y1 x2 y2 p : Nat} {st : Status}
    (h : addConcrete P x1 y1 x2 y2 p = .error st) : st = .internal := by
  unfold addConcrete at h
  split_ifs at h
  · exact thirdPoint_eq_error h
  · exact thirdPoint_eq_error h
  · exact (Except.error.inj h).symm

theorem ecadd_eq_error {p q : Point} {st : Status} (hst : ecadd p q = .error st) :
    st = .fieldMismatch ∨ st = .internal := by
  rcases ecadd_cases p q with ⟨-, h⟩ | ⟨-, ⟨-, h⟩ | ⟨-, h⟩ | ⟨x1, y1, x2, y2, -, -, h⟩⟩
  · exact .inl (Except.error.inj (hst.symm.trans h))
  · cases hst.symm.trans h
  · cases hst.symm.trans h
  · exact .inr (addConcrete_eq_error (h.symm.trans hst))

end Sys2Proof.Machine

/-! The commands PADD, PEQ and PGET (spec/42_point_arithmetic.md R104 to R106). -/
namespace Sys2Proof.Machine

theorem State.commit_toPT (s : State) (pd : PReg) (v : Point) :
    s.commit (.ok { write := .toPT pd v }) = s.wrotePT pd v := rfl

/-- R59, R142: a rule that reads two slots ends `EmptyRegister` if either is empty. -/
theorem Slot.read_two_empty {α β : Type} {x y : Slot α} (h : x = .empty ∨ y = .empty)
    (k : α → α → Except Status β) : (x.read >>= fun a => y.read >>= k a) = .error .emptyRegister := by
  rcases h with rfl | rfl
  · rfl
  · cases x <;> rfl

/-- R59, R142: a rule that reads two point registers ends `EmptyRegister` if either is empty. -/
theorem State.readPT_two_empty {α : Type} {s : State} {pa pb : PReg} (h : s.pt[pa] = .empty ∨ s.pt[pb] = .empty)
    (k : Point → Point → Except Status α) :
    (s.readPT pa >>= fun p => s.readPT pb >>= k p) = .error .emptyRegister :=
  Slot.read_two_empty h k

/-- R59: a rule that reads two full point registers goes on with their points. -/
theorem State.readPT_two_full {α : Type} {s : State} {pa pb : PReg} {p q : Point} (hp : s.pt[pa] = .full p)
    (hq : s.pt[pb] = .full q) (k : Point → Point → Except Status α) :
    (s.readPT pa >>= fun p => s.readPT pb >>= k p) = k p q := by
  rw [State.readPT_full hp, Except.ok_bind, State.readPT_full hq, Except.ok_bind]

/-- R104: a status of `ecadd` is the command's. -/
theorem exec_padd_of_error {s : State} {pa pb : PReg} {p q : Point} {st : Status} (pd : PReg)
    (hp : s.pt[pa] = .full p) (hq : s.pt[pb] = .full q) (hst : ecadd p q = .error st) :
    exec (.padd pd pa pb) s = .next (s.failed st) := by
  rw [exec_eq_commit _ _ (by simp), ruleOf, State.readPT_two_full hp hq, hst, Except.error_bind, State.commit_failed]

/-- Settles O35: the result of `ecadd` decides; over a prime its lines stay on the curve. -/
theorem paddAddsPoints : Obligations.PaddAddsPoints := by
  intro s pd pa pb
  refine ⟨decode_wordOf_fields (.padd pd pa pb), fun p q r hp hq hr => ?_,
    fun p q st hp hq hst => ⟨exec_padd_of_error pd hp hq hst, ecadd_eq_error hst⟩,
    fun p q hp hq hcurve => exec_padd_of_error pd hp hq (ecadd_of_different_curves hcurve),
    fun p q _ _ => ecadd_ne_internal_of_prime, fun h => ?_⟩
  · rw [exec_eq_commit _ _ (by simp), ruleOf, State.readPT_two_full hp hq, hr, Except.ok_bind, Except.pure_eq_ok,
      State.commit_toPT]
  · rw [exec_eq_commit _ _ (by simp), ruleOf, State.readPT_two_empty h, State.commit_failed]

/-- R101, R105: the flag of PEQ decides equality of the points. -/
theorem peqFlag_eq_decide (p q : Point) : peqFlag p q = decide (p = q) := by
  rw [Bool.eq_iff_iff, decide_eq_true_iff]
  exact Point.eqv_iff p q

/-- Settles O37, by whether both sources are full. -/
theorem peqComparesPoints : Obligations.PeqComparesPoints := by
  intro s pa pb
  refine ⟨decode_wordOf_fields (.peq pa pb), fun p q hp hq => ?_, fun h => ?_⟩
  · rw [exec_eq_commit _ _ (by simp), ruleOf, State.readPT_two_full hp hq, Except.pure_eq_ok, State.commit_shown,
      peqFlag_eq_decide, Dout.zero_eq]
  · rw [exec_eq_commit _ _ (by simp), ruleOf, State.readPT_two_empty h, State.commit_failed]

/-- R106: a full source is shown by its flag and its eight words. -/
theorem exec_pget_of_full {s : State} {pa : PReg} {p : Point} (hp : s.pt[pa] = .full p) :
    exec (.pget pa) s = .next (s.showed (pgetFlag p) (pgetDout p)) := by
  rw [exec_eq_commit _ _ (by simp), ruleOf, State.readPT_full hp, Except.ok_bind, Except.pure_eq_ok,
    State.commit_shown]

/-- Settles O38: the coordinate state of the source gives the flag and the words. -/
theorem pgetReadsThePointOut : Obligations.PgetReadsThePointOut := by
  intro s pa
  refine ⟨decode_wordOf_fields (.pget pa), fun a b hp => exec_pget_of_full hp,
    fun a b x y hp => exec_pget_of_full hp, fun h => ?_⟩
  rw [exec_eq_commit _ _ (by simp), ruleOf, State.readPT_empty h, Except.error_bind, State.commit_failed]

end Sys2Proof.Machine

/-! The four forms of PNEW (spec/42_point_arithmetic.md R103). -/
namespace Sys2Proof.Machine

theorem Slot.exists_full {α : Type} {x : Slot α} (h : x ≠ .empty) : ∃ v, x = .full v :=
  x.empty_or_full.resolve_left h

/-- R59, R142: a rule that reads three registers ends `EmptyRegister` if any is empty. -/
theorem State.readF_three_empty {α : Type} {s : State} {fa fb fc : FReg}
    (h : s.f[fa] = .empty ∨ s.f[fb] = .empty ∨ s.f[fc] = .empty) (k : FE → FE → FE → Except Status α) :
    (s.readF fa >>= fun a => s.readF fb >>= fun b => s.readF fc >>= k a b) = .error .emptyRegister := by
  rcases Slot.empty_or_full s.f[fa] with ha | ⟨a, ha⟩
  · rw [State.readF_empty ha, Except.error_bind]
  · rw [State.readF_full ha, Except.ok_bind, State.readF_two_empty (h.resolve_left (by simp [ha]))]

/-- R59, R142: a rule that reads four registers ends `EmptyRegister` if any is empty. -/
theorem State.readF_four_empty {α : Type} {s : State} {fa fb fc fd : FReg}
    (h : s.f[fa] = .empty ∨ s.f[fb] = .empty ∨ s.f[fc] = .empty ∨ s.f[fd] = .empty)
    (k : FE → FE → FE → FE → Except Status α) :
    (s.readF fa >>= fun a => s.readF fb >>= fun b => s.readF fc >>= fun c => s.readF fd >>= k a b c) =
      .error .emptyRegister := by
  rcases Slot.empty_or_full s.f[fa] with ha | ⟨a, ha⟩
  · rw [State.readF_empty ha, Except.error_bind]
  · rw [State.readF_full ha, Except.ok_bind, State.readF_three_empty (h.resolve_left (by simp [ha]))]

/-- R103, form N: no check of the primes comes between the reads and the write. -/
theorem exec_pnewN (s : State) (pd : PReg) (fa fb : FReg) :
    (∀ a b, s.f[fa] = .full a → s.f[fb] = .full b →
      exec (.pnewN pd fa fb) s = .next (s.wrotePT pd ⟨a, b, .infinity⟩)) ∧
    (s.f[fa] = .empty ∨ s.f[fb] = .empty → exec (.pnewN pd fa fb) s = .next (s.failed .emptyRegister)) := by
  rw [exec_eq_commit _ _ (by simp), ruleOf]
  refine ⟨fun a b ha hb => ?_, fun h => ?_⟩
  · rw [State.readF_two_full ha hb, Except.pure_eq_ok, State.commit_toPT]
  · rw [State.readF_two_empty h, State.commit_failed]

/-- R103, forms X and Y: what an instruction does whose rule is `loneCoordinate`. -/
theorem exec_loneCoordinate {i : Instr} {fa fb fc : FReg} (s : State)
    (hexec : exec i s = .next (s.commit (loneCoordinate fa fb fc s))) :
    (s.f[fa] ≠ .empty → s.f[fb] ≠ .empty → s.f[fc] ≠ .empty → exec i s = .next (s.failed .invalidInfinity)) ∧
    (s.f[fa] = .empty ∨ s.f[fb] = .empty ∨ s.f[fc] = .empty → exec i s = .next (s.failed .emptyRegister)) := by
  rw [hexec, loneCoordinate]
  refine ⟨fun ha hb hc => ?_, fun h => ?_⟩
  · obtain ⟨a, ha⟩ := Slot.exists_full ha
    obtain ⟨b, hb⟩ := Slot.exists_full hb
    obtain ⟨c, hc⟩ := Slot.exists_full hc
    rw [State.readF_two_full ha hb, State.readF_full hc, Except.ok_bind, State.commit_failed]
  · rw [State.readF_three_empty h, State.commit_failed]

theorem onePrime_iff (a b x y : FE) :
    onePrime a b x y = true ↔ a.prime = b.prime ∧ b.prime = x.prime ∧ x.prime = y.prime := by
  simp [onePrime, and_assoc]

/-- R103, form XY: four full registers are checked for one prime, then for the curve equation. -/
theorem exec_pnewXY_checks {s : State} {fa fb fx fy : FReg} {a b x y : FE} (pd : PReg) (ha : s.f[fa] = .full a)
    (hb : s.f[fb] = .full b) (hx : s.f[fx] = .full x) (hy : s.f[fy] = .full y) :
    (a.prime = b.prime ∧ b.prime = x.prime ∧ x.prime = y.prime →
      oncurve a.value b.value x.value y.value a.prime = true →
      exec (.pnewXY pd fa fb fx fy) s = .next (s.wrotePT pd ⟨a, b, .onCurve x y⟩)) ∧
    (a.prime = b.prime ∧ b.prime = x.prime ∧ x.prime = y.prime →
      oncurve a.value b.value x.value y.value a.prime = false →
      exec (.pnewXY pd fa fb fx fy) s = .next (s.failed .notOnCurve)) ∧
    (¬(a.prime = b.prime ∧ b.prime = x.prime ∧ x.prime = y.prime) →
      exec (.pnewXY pd fa fb fx fy) s = .next (s.failed .fieldMismatch)) := by
  rw [← onePrime_iff, Bool.not_eq_true, exec_eq_commit _ _ (by simp), ruleOf, State.readF_two_full ha hb,
    State.readF_two_full hx hy]
  refine ⟨fun hprime hcurve => ?_, fun hprime hcurve => ?_, fun hprime => ?_⟩
  · rw [hprime, require_true, Except.ok_bind, hcurve, require_true, Except.ok_bind, Except.pure_eq_ok,
      State.commit_toPT]
  · rw [hprime, require_true, Except.ok_bind, hcurve, require_false, Except.error_bind, State.commit_failed]
  · rw [hprime, require_false, Except.error_bind, State.commit_failed]

/-- R103, form XY: a register the form names and that is empty comes before every check. -/
theorem exec_pnewXY_of_empty {s : State} {fa fb fx fy : FReg} (pd : PReg)
    (h : s.f[fa] = .empty ∨ s.f[fb] = .empty ∨ s.f[fx] = .empty ∨ s.f[fy] = .empty) :
    exec (.pnewXY pd fa fb fx fy) s = .next (s.failed .emptyRegister) := by
  rw [exec_eq_commit _ _ (by simp), ruleOf, State.readF_four_empty h, State.commit_failed]

/-- Settles O34, form by form. -/
theorem pnewConstructsPoints : Obligations.PnewConstructsPoints := by
  intro s pd fa fb fx fy
  obtain ⟨hinfinity, hinfinityEmpty⟩ := exec_pnewN s pd fa fb
  obtain ⟨hloneX, hloneXEmpty⟩ := exec_loneCoordinate (i := .pnewX pd fa fb fx) (fc := fx) s rfl
  obtain ⟨hloneY, hloneYEmpty⟩ := exec_loneCoordinate (i := .pnewY pd fa fb fy) (fc := fy) s rfl
  exact ⟨decode_wordOf_fields (.pnewN pd fa fb), decode_wordOf_fields (.pnewY pd fa fb fy),
    decode_wordOf_fields (.pnewX pd fa fb fx), decode_wordOf_fields (.pnewXY pd fa fb fx fy), hinfinity,
    hinfinityEmpty, hloneX, hloneXEmpty, hloneY, hloneYEmpty,
    fun a b x y ha hb hx hy => exec_pnewXY_checks pd ha hb hx hy, exec_pnewXY_of_empty pd⟩

end Sys2Proof.Machine

/-! What a sum of points is: a point of the summands' curve, lawful when they are (spec/42_point_arithmetic.md R102,
section 3). -/
namespace Sys2Proof.Machine

/-- R102 step 5: a third point that passed its check is a point of the curve, at the prime `p`. -/
theorem thirdPoint_eq_ok {P r : Point} {x1 y1 x2 s p : Nat} (h : thirdPoint P x1 y1 x2 s p = .ok r) :
    ∃ x3 y3, (0 < p → x3 < p ∧ y3 < p) ∧ oncurve P.a.value P.b.value x3 y3 p = true ∧
      r = ⟨P.a, P.b, .onCurve ⟨x3, p⟩ ⟨y3, p⟩⟩ := by
  simp only [thirdPoint] at h
  split_ifs at h with hcurve
  refine ⟨_, _, fun hp => ⟨?_, ?_⟩, hcurve, (Except.ok.inj h).symm⟩
  · exact modsub_lt _ (modsub_lt _ (modmul_lt _ _ hp))
  · exact modsub_lt _ (modmul_lt _ _ hp)

/-- R102 steps 2 to 5: a sum of concrete points is the infinity of the curve or a third point. -/
theorem addConcrete_eq_ok {P r : Point} {x1 y1 x2 y2 p : Nat} (h : addConcrete P x1 y1 x2 y2 p = .ok r) :
    r = ⟨P.a, P.b, .infinity⟩ ∨
      ∃ x3 y3, (0 < p → x3 < p ∧ y3 < p) ∧ oncurve P.a.value P.b.value x3 y3 p = true ∧
        r = ⟨P.a, P.b, .onCurve ⟨x3, p⟩ ⟨y3, p⟩⟩ := by
  unfold addConcrete at h
  split_ifs at h
  · exact .inl (Except.ok.inj h).symm
  · exact .inr (thirdPoint_eq_ok h)
  · exact .inr (thirdPoint_eq_ok h)

/-- R102: only points of one curve have a sum, and the sum has that curve's constants. -/
theorem ecadd_eq_ok_curve {p q r : Point} (hr : ecadd p q = .ok r) :
    (p.a = q.a ∧ p.b = q.b) ∧ r.a = p.a ∧ r.b = p.b := by
  rcases ecadd_cases p q with ⟨-, h⟩ | ⟨hcurve, ⟨-, h⟩ | ⟨-, h⟩ | ⟨x1, y1, x2, y2, -, -, h⟩⟩ <;> rw [h] at hr
  · cases hr
  · obtain rfl := Except.ok.inj hr
    exact ⟨hcurve, hcurve.1.symm, hcurve.2.symm⟩
  · obtain rfl := Except.ok.inj hr
    exact ⟨hcurve, rfl, rfl⟩
  · obtain rfl | ⟨x3, y3, -, -, rfl⟩ := addConcrete_eq_ok hr
    · exact ⟨hcurve, rfl, rfl⟩
    · exact ⟨hcurve, rfl, rfl⟩

/-- R102, section 3: a sum of lawful points is lawful, over every modulus. -/
theorem ecadd_lawful {p q r : Point} (hp : p.Lawful) (hq : q.Lawful) (hr : ecadd p q = .ok r) : r.Lawful := by
  rcases ecadd_cases p q with ⟨-, h⟩ | ⟨-, ⟨-, h⟩ | ⟨-, h⟩ | ⟨x1, y1, x2, y2, hpc, -, h⟩⟩ <;> rw [h] at hr
  · cases hr
  · exact Except.ok.inj hr ▸ hq
  · exact Except.ok.inj hr ▸ hp
  · obtain ⟨ha, hb, hcoords⟩ := hp
    rw [hpc] at hcoords
    obtain ⟨-, -, hab, -⟩ := hcoords
    obtain rfl | ⟨x3, y3, hlt, hcurve, rfl⟩ := addConcrete_eq_ok hr
    · exact ⟨ha, hb, trivial⟩
    · obtain ⟨hx3, hy3⟩ := hlt (Nat.zero_lt_of_lt ha)
      exact ⟨ha, hb, hx3, hy3, hab, hab.symm, rfl, hcurve⟩

/-- R102 step 0: a status that points of one curve give is not that of step 0. -/
theorem ecadd_eq_error_of_same_curve {p q : Point} {st : Status} (ha : p.a = q.a) (hb : p.b = q.b)
    (hst : ecadd p q = .error st) : st = .internal := by
  rcases ecadd_cases p q with ⟨hcurve, -⟩ | ⟨-, ⟨-, h⟩ | ⟨-, h⟩ | ⟨x1, y1, x2, y2, -, -, h⟩⟩
  · exact absurd ⟨ha, hb⟩ hcurve
  · cases h.symm.trans hst
  · cases h.symm.trans hst
  · exact addConcrete_eq_error (h.symm.trans hst)

end Sys2Proof.Machine

/-! The fold of `ecmul` over the scalar: it stays on the curve of its point, ends only `Internal`, and over a prime never
ends (spec/43_scalar_multiplication.md R120). -/
namespace Sys2Proof.Machine

/-- R120: one more addition of the point, on the right. -/
theorem ecmul_succ (P : Point) (k : Nat) : ecmul P (k + 1) = ecmul P k >>= fun R => ecadd R P := rfl

/-- R120: a multiple is a point of the curve. -/
theorem ecmul_eq_ok_curve {P R : Point} {k : Nat} (h : ecmul P k = .ok R) : R.a = P.a ∧ R.b = P.b := by
  cases k with
  | zero =>
    obtain rfl := Except.ok.inj h
    exact ⟨rfl, rfl⟩
  | succ k =>
    obtain ⟨T, -, hsum⟩ := Except.bind_eq_ok.mp (ecmul_succ P k ▸ h)
    obtain ⟨⟨hTa, hTb⟩, hRa, hRb⟩ := ecadd_eq_ok_curve hsum
    exact ⟨hRa.trans hTa, hRb.trans hTb⟩

/-- R120: the fold adds points of one curve, so no status but `Internal` comes out of it. -/
theorem ecmul_eq_error {P : Point} {k : Nat} {st : Status} (h : ecmul P k = .error st) : st = .internal := by
  induction k with
  | zero => cases h
  | succ k ih =>
    obtain hfold | ⟨T, hT, hsum⟩ := Except.bind_eq_error.mp (ecmul_succ P k ▸ h)
    · exact ih hfold
    · obtain ⟨ha, hb⟩ := ecmul_eq_ok_curve hT
      exact ecadd_eq_error_of_same_curve ha hb hsum

/-- R120: the multiples of a lawful point are lawful, over every modulus. -/
theorem ecmul_lawful {P R : Point} {k : Nat} (hP : P.Lawful) (h : ecmul P k = .ok R) : R.Lawful := by
  induction k generalizing R with
  | zero =>
    obtain ⟨ha, hb, -⟩ := hP
    obtain rfl := Except.ok.inj h
    exact ⟨ha, hb, trivial⟩
  | succ k ih =>
    obtain ⟨T, hT, hsum⟩ := Except.bind_eq_ok.mp (ecmul_succ P k ▸ h)
    exact ecadd_lawful (ih hT) hP hsum

/-- R120: over a prime, a lawful point has every multiple. -/
theorem ecmul_ok_of_prime {P : Point} (hP : P.Lawful) (hprime : P.a.prime.Prime) (k : Nat) :
    ∃ R, ecmul P k = .ok R := by
  induction k with
  | zero => exact ⟨_, rfl⟩
  | succ k ih =>
    obtain ⟨T, hT⟩ := ih
    obtain ⟨ha, hb⟩ := ecmul_eq_ok_curve hT
    rw [ecmul_succ, hT, Except.ok_bind]
    exact ecadd_ok_of_prime (ecmul_lawful hP hT) hP ha hb (ha ▸ hprime)

end Sys2Proof.Machine

/-! The command PMUL (spec/43_scalar_multiplication.md R121). -/
namespace Sys2Proof.Machine

/-- R121: the result of `ecmul` is the command's, a point written or a status raised. -/
theorem exec_pmul_of_full {s : State} {c : Command} {pa : PReg} {p : Point} (pd : PReg) (hport : s.port = .busy c)
    (hp : s.pt[pa] = .full p) :
    exec (.pmul pd pa) s =
      .next (s.commit (ecmul p c.din0 >>= fun r => .ok { write := .toPT pd r })) := by
  rw [exec_eq_commit _ _ (by simp), ruleOf, State.readPT_full hp, Except.ok_bind, State.din0_busy hport]
  simp only [Except.pure_eq_ok]

/-- R121: a multiple is written to the destination. -/
theorem exec_pmul_of_ok {s : State} {c : Command} {pa : PReg} {p r : Point} (pd : PReg) (hport : s.port = .busy c)
    (hp : s.pt[pa] = .full p) (hr : ecmul p c.din0 = .ok r) :
    exec (.pmul pd pa) s = .next (s.wrotePT pd r) := by
  rw [exec_pmul_of_full pd hport hp, hr, Except.ok_bind, State.commit_toPT]

/-- Settles O39: the result of `ecmul` decides; over a prime every addition of its fold succeeds. -/
theorem pmulMultipliesByTheDataInput : Obligations.PmulMultipliesByTheDataInput := by
  intro s c pd pa hport
  refine ⟨decode_wordOf_fields (.pmul pd pa), fun p r hp hr => exec_pmul_of_ok pd hport hp hr,
    fun p st hp hst => ⟨?_, ecmul_eq_error hst⟩, fun p hp hlawful hprime => ?_, fun h => ?_⟩
  · rw [exec_pmul_of_full pd hport hp, hst, Except.error_bind, State.commit_failed]
  · obtain ⟨r, hr⟩ := ecmul_ok_of_prime hlawful hprime c.din0
    exact ⟨r, hr, exec_pmul_of_ok pd hport hp hr⟩
  · rw [exec_eq_commit _ _ (by simp), ruleOf, State.readPT_empty h, Except.error_bind, State.commit_failed]

end Sys2Proof.Machine

/-! The words of opcode 0x01 (spec/30_encoding.md R54 to R56): STAT's row fixes every bit of its word. -/
namespace Sys2Proof

/-- R57: a word that no row accepts is no command. -/
theorem decode_eq_none_iff (w : CmdWord) : decode w = none ↔ ∀ r ∈ rows, r.matches w ≠ true := by
  rw [decode, Option.map_eq_none_iff, List.find?_eq_none]

/-- R55: a row accepts only words of its own opcode. -/
theorem Row.opcode_of_matches {r : Row} {w : CmdWord} (hr : r ∈ rows) (hm : r.matches w = true) :
    (fieldsOf r.pattern).opcode = (fieldsOf w).opcode :=
  congrArg Prod.fst (Row.key_of_accepts hr ((r.matches_iff w).mp hm))

/-- R55: a row whose mask has every bit accepts one word only. -/
theorem Row.eq_pattern_of_matches {r : Row} {w : CmdWord} (hmask : r.mask = BitVec.allOnes 32)
    (hm : r.matches w = true) : w = r.pattern := by
  rwa [Row.matches, hmask, BitVec.and_allOnes, beq_iff_eq] at hm

/-- R55: opcode 0x01 is STAT's alone, and every bit of STAT's word is fixed. -/
theorem rows_opcode_stat :
    ∀ r ∈ rows, (fieldsOf r.pattern).opcode = 0x01#8 → r.mask = BitVec.allOnes 32 ∧ r.pattern = encode .stat := by
  decide

/-- R56, R57: a word of opcode 0x01 with a bit set elsewhere is no command. -/
theorem decode_eq_none_of_opcode_stat {w : CmdWord} (hop : (fieldsOf w).opcode = 0x01#8) (hw : w ≠ encode .stat) :
    decode w = none := by
  rw [decode_eq_none_iff]
  intro r hr hm
  obtain ⟨hmask, hpattern⟩ := rows_opcode_stat r hr ((Row.opcode_of_matches hr hm).trans hop)
  exact hw ((Row.eq_pattern_of_matches hmask hm).trans hpattern)

end Sys2Proof

/-! The command STAT (spec/44_system.md R130). -/
namespace Sys2Proof.Machine

/-- R53, R140: a status code has four bits, so a data word of at least four bits shows it whole. -/
theorem Status.code_mod_two_pow (st : Status) {W : Nat} (hW : 4 ≤ W) : st.code.toNat % 2 ^ W = st.code.toNat :=
  Nat.mod_eq_of_lt (st.code.isLt.trans_le (Nat.pow_le_pow_right Nat.two_pos hW))

/-- Settles O24: STAT's row leaves no bit free, and STAT only presents a response. -/
theorem statShowsStatusAndKeepsIt : Obligations.StatShowsStatusAndKeepsIt :=
  ⟨decode_wordOf_fields .stat, fun _ => decode_eq_none_of_opcode_stat,
    fun s => ⟨exec_stat s, fun _ => s.status.code_mod_two_pow⟩⟩

end Sys2Proof.Machine

/-! What an edge without reset does to a command in flight, and with which status (spec/60_exceptions.md R143, R144). -/
namespace Sys2Proof.Machine

/-- R163: a command in flight is executed at the edge. -/
theorem step_of_decode_some {s : State} {c : Command} {i : Instr} (hport : s.port = .busy c)
    (hrst : s.edge.rst = false) (hdec : decode c.word = some i) : step s = exec i s.advance := by
  simp [step, hrst, hport, hdec]

/-- R57: a word in flight that is no command is rejected at the edge. -/
theorem step_of_decode_none {s : State} {c : Command} (hport : s.port = .busy c) (hrst : s.edge.rst = false)
    (hdec : decode c.word = none) : step s = .next s.advance.rejectWord := by
  simp [step, hrst, hport, hdec]

/-- R130: STAT in flight presents `STATUS` and changes nothing else. -/
theorem step_of_decode_stat {s : State} {c : Command} (hport : s.port = .busy c) (hrst : s.edge.rst = false)
    (hdec : decode c.word = some .stat) :
    step s = .next (s.advance.respond ⟨.ok, false, statDout s.status⟩) :=
  step_of_decode_some hport hrst hdec

/-- R143, R144: a word in flight that is not STAT, legal or not, ends in `commit`. -/
theorem step_eq_commit {s : State} {c : Command} (hport : s.port = .busy c) (hrst : s.edge.rst = false)
    (hstat : decode c.word ≠ some .stat) : ∃ x, step s = .next (s.advance.commit x) := by
  cases hdec : decode c.word with
  | none => exact ⟨.error .illegalCommand, step_of_decode_none hport hrst hdec⟩
  | some i =>
    have hi : i ≠ .stat := fun h => hstat (h ▸ hdec)
    exact ⟨ruleOf i s.advance, (step_of_decode_some hport hrst hdec).trans (exec_eq_commit i s.advance hi)⟩

/-- R144: the status `commit` leaves is the one it answers. -/
theorem State.commit_status_of_port {s : State} {x : Except Status Effect} {r : Response}
    (hr : (s.commit x).port = .done r) : (s.commit x).status = r.status := by
  obtain ⟨r', hr', hstatus⟩ := s.commit_responds x
  obtain rfl : r' = r := Port.done.inj (hr'.symm.trans hr)
  exact hstatus

/-- R143: only a raised status is answered as one other than `OK`. -/
theorem State.commit_eq_failed {s : State} {x : Except Status Effect} {r : Response}
    (hr : (s.commit x).port = .done r) (hne : r.status ≠ .ok) : s.commit x = s.failed r.status := by
  rw [← State.commit_status_of_port hr] at hne ⊢
  cases x with
  | error st => exact s.commit_failed st
  | ok e => exact absurd rfl hne

/-- Settles O41: STAT answers `OK`, and every other word ends in `commit`. -/
theorem failuresArePrecise : Obligations.FailuresArePrecise := by
  intro s t c r hport hrst hstep hr hne
  by_cases hstat : decode c.word = some .stat
  · obtain rfl := Host.Outcome.next.inj ((step_of_decode_stat hport hrst hstat).symm.trans hstep)
    exact absurd (congrArg Response.status (Port.done.inj hr)).symm hne
  · obtain ⟨x, hx⟩ := step_eq_commit hport hrst hstat
    obtain rfl := Host.Outcome.next.inj (hx.symm.trans hstep)
    exact State.commit_eq_failed hr hne

/-- Settles O42: a failed state holds what its response says, and of the words only STAT does not end in `commit`. -/
theorem statusFollowsTheResponse : Obligations.StatusFollowsTheResponse := by
  intro s t c r hport hrst hstep hr
  refine ⟨fun hne => ?_, fun hstat => ?_, fun hstat => ?_⟩
  · obtain rfl := failuresArePrecise s t c r hport hrst hstep hr hne
    have hresp : Response.mk r.status false #v[0, 0, 0, 0, 0, 0, 0, 0] = r := Port.done.inj hr
    exact ⟨rfl, (congrArg Response.flag hresp).symm, (congrArg Response.dout hresp).symm, rfl, rfl⟩
  · obtain ⟨x, hx⟩ := step_eq_commit hport hrst hstat
    obtain rfl := Host.Outcome.next.inj (hx.symm.trans hstep)
    exact State.commit_status_of_port hr
  · obtain rfl := Host.Outcome.next.inj ((step_of_decode_stat hport hrst hstat).symm.trans hstep)
    exact ⟨rfl, (congrArg Response.status (Port.done.inj hr)).symm⟩

end Sys2Proof.Machine

/-! The decoder against the encoder and against the field rules (spec/30_encoding.md sections 3 and 4): a legal word is one
instruction's word, and a word of legal fields is some instruction's. -/
namespace Sys2Proof

/-- Settles O1: an instruction's row is the one the decoder finds. -/
theorem decodeOfEncodeIsTheInstruction : Obligations.DecodeOfEncodeIsTheInstruction := decode_wordOf_fields

theorem and_fifteen (b : BitVec 4) : b &&& 15#4 = b := BitVec.and_allOnes

/-- R55, R56: what a row builds from fields it accepts has just these fields: the mask covers every field left out. -/
theorem Row.fields_build {r : Row} {f : Fields} (hr : r ∈ rows)
    (hm : f.and (fieldsOf r.mask) = fieldsOf r.pattern) : (r.build f).fields = f := by
  obtain ⟨opcode, rd, rs1, rs2, rs3, rs4, cp⟩ := f
  have hop : opcode = (fieldsOf r.pattern).opcode := (congrArg Prod.fst (key_of_accepts hr hm)).symm
  have hcp : cp = (fieldsOf r.pattern).cp := (congrArg Prod.snd (key_of_accepts hr hm)).symm
  subst hop hcp
  simp only [rows, fieldRows, pointRows, List.cons_append, List.nil_append, List.mem_cons, List.not_mem_nil,
    or_false] at hr
  rcases hr with rfl | rfl | rfl | rfl | rfl | rfl | rfl | rfl | rfl | rfl | rfl | rfl | rfl | rfl | rfl | rfl |
    rfl | rfl <;>
    simp_all [Fields.and, fieldsOf, Instr.fields, and_fifteen]

/-- R55: a word the decoder accepts was accepted by a row, which built the instruction. -/
theorem exists_row_of_decode {w : CmdWord} {i : Instr} (h : decode w = some i) :
    ∃ r ∈ rows, (fieldsOf w).and (fieldsOf r.mask) = fieldsOf r.pattern ∧ r.build (fieldsOf w) = i := by
  obtain ⟨r, hfind, hbuild⟩ := Option.map_eq_some_iff.mp h
  exact ⟨r, List.mem_of_find?_eq_some hfind, (r.matches_iff w).mp (by simpa using List.find?_some hfind), hbuild⟩

/-- A decoded word has the instruction's fields. -/
theorem fields_of_decode {w : CmdWord} {i : Instr} (h : decode w = some i) : i.fields = fieldsOf w := by
  obtain ⟨r, hr, hm, rfl⟩ := exists_row_of_decode h
  exact r.fields_build hr hm

/-- Settles O2: a word is known by its fields. -/
theorem eachInstructionHasOneWord : Obligations.EachInstructionHasOneWord := by
  intro w i h
  rw [encode, fields_of_decode h, wordOf_fieldsOf]

/-- Settles O3: both rows have the opcode and the `cp` of the word, and no two rows share that pair. -/
theorem noWordMatchesTwoRows : Obligations.NoWordMatchesTwoRows := by
  intro w j k hj hk hmj hmk
  have hkey : rows[j].key = rows[k].key :=
    (Row.key_of_accepts (List.getElem_mem hj) ((Row.matches_iff _ w).mp hmj)).trans
      (Row.key_of_accepts (List.getElem_mem hk) ((Row.matches_iff _ w).mp hmk)).symm
  exact (rows_key_nodup.of_map _).getElem_inj_iff.mp
    (List.inj_on_of_nodup_map rows_key_nodup (List.getElem_mem hj) (List.getElem_mem hk) hkey)

/-- R54, R56: an instruction's fields are legal. -/
theorem Instr.fields_wf (i : Instr) : i.fields.wf = true := by
  cases i with
  | stat => exact Laws.LegalFields.stat
  | fnew => exact Laws.LegalFields.fnew _
  | fadd => exact Laws.LegalFields.fadd ..
  | fsub => exact Laws.LegalFields.fsub ..
  | fmul => exact Laws.LegalFields.fmul ..
  | fpow => exact Laws.LegalFields.fpow ..
  | finv => exact Laws.LegalFields.finv ..
  | fdiv => exact Laws.LegalFields.fdiv ..
  | feq => exact Laws.LegalFields.feq ..
  | fget => exact Laws.LegalFields.fget _
  | pnewN => exact Laws.LegalFields.pnewN ..
  | pnewY => exact Laws.LegalFields.pnewY ..
  | pnewX => exact Laws.LegalFields.pnewX ..
  | pnewXY => exact Laws.LegalFields.pnewXY ..
  | padd => exact Laws.LegalFields.padd ..
  | pmul => exact Laws.LegalFields.pmul ..
  | peq => exact Laws.LegalFields.peq ..
  | pget => exact Laws.LegalFields.pget _

/-- R56, outside PNEW: a field the opcode does not use is zero. -/
theorem Fields.unused_zero_of_wf {f : Fields} {u : Uses} (hwf : f.wf = true) (hu : opcodeUses f.opcode = some u)
    (hp : f.isPnew = false) :
    (u.rd = false → f.rd = 0) ∧ (u.rs1 = false → f.rs1 = 0) ∧ (u.rs2 = false → f.rs2 = 0) ∧
      f.rs3 = 0 ∧ f.rs4 = 0 ∧ f.cp = 0 := by
  simp only [wf, hu, xp, yp, cpLegal, hp, zeroUnlessUsed, Bool.false_and, Bool.false_or, Bool.false_eq_true,
    if_false, Bool.and_eq_true, Bool.or_eq_true, beq_iff_eq] at hwf
  obtain ⟨⟨⟨⟨⟨hrd, hrs1⟩, hrs2⟩, hrs3⟩, hrs4⟩, hcp⟩ := hwf
  exact ⟨fun h => hrd.resolve_left (by simp [h]), fun h => hrs1.resolve_left (by simp [h]),
    fun h => hrs2.resolve_left (by simp [h]), hrs3, hrs4, hcp⟩

/-- R51, R56: the presence fields with bits 3:2 zero. -/
theorem cp_cases :
    ∀ cp : BitVec 4, cp.getLsbD 3 = false → cp.getLsbD 2 = false → cp = 0 ∨ cp = 1 ∨ cp = 2 ∨ cp = 3 := by
  decide

/-- R56, R103: legal fields of PNEW are those of one of its four forms. -/
theorem Fields.exists_pnew_of_wf {f : Fields} (hwf : f.wf = true) (hop : f.opcode = 0x20#8) :
    ∃ i : Instr, i.fields = f := by
  obtain ⟨opcode, rd, rs1, rs2, rs3, rs4, cp⟩ := f
  obtain rfl : opcode = 0x20#8 := hop
  have hlegal : (cp.getLsbD 1 = true ∨ rs3 = 0) ∧ (cp.getLsbD 0 = true ∨ rs4 = 0) ∧
      cp.getLsbD 3 = false ∧ cp.getLsbD 2 = false := by
    simpa [wf, opcodeUses, xp, yp, isPnew, cpLegal, zeroUnlessUsed, and_assoc] using hwf
  obtain ⟨hrs3, hrs4, h3, h2⟩ := hlegal
  rcases cp_cases cp h3 h2 with rfl | rfl | rfl | rfl
  · obtain rfl := hrs3.resolve_left (by decide)
    obtain rfl := hrs4.resolve_left (by decide)
    exact ⟨.pnewN (regOf rd) (regOf rs1) (regOf rs2), rfl⟩
  · obtain rfl := hrs3.resolve_left (by decide)
    exact ⟨.pnewY (regOf rd) (regOf rs1) (regOf rs2) (regOf rs4), rfl⟩
  · obtain rfl := hrs4.resolve_left (by decide)
    exact ⟨.pnewX (regOf rd) (regOf rs1) (regOf rs2) (regOf rs3), rfl⟩
  · exact ⟨.pnewXY (regOf rd) (regOf rs1) (regOf rs2) (regOf rs3) (regOf rs4), rfl⟩

/-- R54: the defined opcodes, PNEW's first, then the others by the register fields they use. -/
theorem opcode_cases {op : BitVec 8} {u : Uses} (hu : opcodeUses op = some u) :
    op = 0x20#8 ∨
    op = 0x01#8 ∧ u = ⟨false, false, false⟩ ∨
    op = 0x10#8 ∧ u = ⟨true, false, false⟩ ∨
    (op = 0x11#8 ∨ op = 0x12#8 ∨ op = 0x13#8 ∨ op = 0x16#8 ∨ op = 0x21#8) ∨
    (op = 0x14#8 ∨ op = 0x15#8 ∨ op = 0x22#8) ∧ u = ⟨true, true, false⟩ ∨
    (op = 0x17#8 ∨ op = 0x23#8) ∧ u = ⟨false, true, true⟩ ∨
    (op = 0x18#8 ∨ op = 0x24#8) ∧ u = ⟨false, true, false⟩ := by
  simp only [← BitVec.toNat_inj]
  unfold opcodeUses at hu
  split at hu <;> simp_all [eq_comm]

/-- R54, R56: legal fields are some instruction's. -/
theorem Fields.exists_instr_of_wf {f : Fields} (hwf : f.wf = true) : ∃ i : Instr, i.fields = f := by
  by_cases hop : f.opcode = 0x20#8
  · exact exists_pnew_of_wf hwf hop
  have hp : f.isPnew = false := beq_eq_false_iff_ne.mpr hop
  cases hu : opcodeUses f.opcode with
  | none => simp [wf, hu] at hwf
  | some u =>
    obtain ⟨hrd, hrs1, hrs2, hrs3, hrs4, hcp⟩ := unused_zero_of_wf hwf hu hp
    obtain ⟨opcode, rd, rs1, rs2, rs3, rs4, cp⟩ := f
    obtain ⟨rfl, rfl, rfl⟩ : rs3 = 0 ∧ rs4 = 0 ∧ cp = 0 := ⟨hrs3, hrs4, hcp⟩
    rcases opcode_cases hu with rfl | ⟨rfl, rfl⟩ | ⟨rfl, rfl⟩ | h | ⟨h, rfl⟩ | ⟨h, rfl⟩ | ⟨h, rfl⟩
    · exact absurd rfl hop
    · exact ⟨.stat, by simp_all [Instr.fields]⟩
    · exact ⟨.fnew (regOf rd), by simp_all [Instr.fields]⟩
    · rcases h with rfl | rfl | rfl | rfl | rfl
      · exact ⟨.fadd (regOf rd) (regOf rs1) (regOf rs2), rfl⟩
      · exact ⟨.fsub (regOf rd) (regOf rs1) (regOf rs2), rfl⟩
      · exact ⟨.fmul (regOf rd) (regOf rs1) (regOf rs2), rfl⟩
      · exact ⟨.fdiv (regOf rd) (regOf rs1) (regOf rs2), rfl⟩
      · exact ⟨.padd (regOf rd) (regOf rs1) (regOf rs2), rfl⟩
    · obtain rfl : rs2 = 0 := hrs2 rfl
      rcases h with rfl | rfl | rfl
      · exact ⟨.fpow (regOf rd) (regOf rs1), rfl⟩
      · exact ⟨.finv (regOf rd) (regOf rs1), rfl⟩
      · exact ⟨.pmul (regOf rd) (regOf rs1), rfl⟩
    · obtain rfl : rd = 0 := hrd rfl
      rcases h with rfl | rfl
      · exact ⟨.feq (regOf rs1) (regOf rs2), rfl⟩
      · exact ⟨.peq (regOf rs1) (regOf rs2), rfl⟩
    · obtain ⟨rfl, rfl⟩ : rd = 0 ∧ rs2 = 0 := ⟨hrd rfl, hrs2 rfl⟩
      rcases h with rfl | rfl
      · exact ⟨.fget (regOf rs1), rfl⟩
      · exact ⟨.pget (regOf rs1), rfl⟩

/-- R57: the decoder accepts exactly the words of legal fields. -/
theorem decode_isSome_iff_wf (w : CmdWord) : (∃ i, decode w = some i) ↔ (fieldsOf w).wf = true := by
  constructor
  · rintro ⟨i, h⟩
    rw [← fields_of_decode h]
    exact i.fields_wf
  · intro hwf
    obtain ⟨i, hi⟩ := Fields.exists_instr_of_wf hwf
    exact ⟨i, by rw [← decodeOfEncodeIsTheInstruction i, encode, hi, wordOf_fieldsOf]⟩

/-- Settles O4: the decoder's masks and the field rules accept the words of the instructions, and no others. -/
theorem illegalWordsAreTheIllFormedOnes : Obligations.IllegalWordsAreTheIllFormedOnes := by
  intro w
  rw [← Bool.not_eq_true, ← decode_isSome_iff_wf, ← Option.ne_none_iff_exists', not_not]

/-- Settles O6: each word is the encoding of the instruction it stands for. -/
theorem writtenOutWordsDecode : Obligations.WrittenOutWordsDecode :=
  ⟨decodeOfEncodeIsTheInstruction .stat, decodeOfEncodeIsTheInstruction (.fadd 1 2 3),
    decodeOfEncodeIsTheInstruction (.fsub 15 14 13), decodeOfEncodeIsTheInstruction (.finv 10 11),
    decodeOfEncodeIsTheInstruction (.pnewX 9 10 11 12), decodeOfEncodeIsTheInstruction (.pnewY 13 14 15 1),
    decodeOfEncodeIsTheInstruction (.pnewXY 1 2 3 4 5), decodeOfEncodeIsTheInstruction (.pmul 5 6)⟩

end Sys2Proof

/-! A word in flight that is no command (spec/30_encoding.md section 4). -/
namespace Sys2Proof.Machine

theorem State.rejectWord_failed (s : State) : s.rejectWord = s.failed .illegalCommand := rfl

/-- R57: a word in flight that is no command ends `IllegalCommand`. -/
theorem step_illegal {s : State} {c : Command} (hport : s.port = .busy c) (hrst : s.edge.rst = false)
    (hdec : decode c.word = none) : step s = .next (s.advance.failed .illegalCommand) := by
  rw [step_of_decode_none hport hrst hdec, State.rejectWord_failed]

/-- Settles O5: the decoder refuses the word, and the step raises the status. -/
theorem illegalCommandChangesOnlyStatus : Obligations.IllegalCommandChangesOnlyStatus :=
  ⟨fun _ c hport hrst hwf => step_illegal hport hrst ((illegalWordsAreTheIllFormedOnes c.word).mpr hwf),
    by decide, by decide, rfl⟩

/-- Settles O49: the codes are 0 to 8. -/
theorem statusCodes : Obligations.StatusCodes :=
  ⟨rfl, rfl, rfl, rfl, rfl, rfl, rfl, rfl, rfl, fun st => by cases st <;> decide⟩

/-- Settles O50: without reset, the phase and the decoder decide. -/
theorem stepRunsTheDecodedInstruction : Obligations.StepRunsTheDecodedInstruction :=
  fun _ _ _ => step_of_decode_some

end Sys2Proof.Machine

/-! The laws of the units U1 to U4 (spec/40_field_arithmetic.md section 3, spec/41_field_inversion.md sections 1 and 3). -/
namespace Sys2Proof.Machine

theorem modadd_comm (a b p : Nat) : modadd a b p = modadd b a p := by rw [modadd, modadd, Nat.add_comm]

theorem modmul_comm (a b p : Nat) : modmul a b p = modmul b a p := by rw [modmul, modmul, Nat.mul_comm]

theorem modadd_assoc (a b c p : Nat) : modadd (modadd a b p) c p = modadd a (modadd b c p) p := by
  simp only [modadd, Nat.mod_add_mod, Nat.add_mod_mod, Nat.add_assoc]

theorem modmul_assoc (a b c p : Nat) : modmul (modmul a b p) c p = modmul a (modmul b c p) p := by
  simp only [modmul, Nat.mod_mul_mod, Nat.mul_mod_mod, Nat.mul_assoc]

theorem modmul_modadd (a b c p : Nat) :
    modmul a (modadd b c p) p = modadd (modmul a b p) (modmul a c p) p := by
  simp only [modmul, modadd, Nat.mul_mod_mod, Nat.mod_add_mod, Nat.add_mod_mod, Nat.mul_add]

/-- R80: the difference is the only element that gives back the minuend. -/
theorem modadd_eq_iff_eq_modsub {a b d p : Nat} (ha : a < p) (hb : b < p) (hd : d < p) :
    modadd d b p = a ↔ d = modsub a b p := by
  rw [modadd_eq_ite hd hb]
  rcases Nat.lt_or_ge a b with h | h
  · rw [modsub_of_lt p h]
    split_ifs <;> omega
  · rw [modsub_of_le p h]
    split_ifs <;> omega

/-- R80, C4: the additive inverse. -/
theorem modadd_neg {a p : Nat} (ha : a < p) : modadd a ((p - a) % p) p = 0 := by
  rw [modadd, Nat.add_mod_mod, Nat.add_sub_cancel' ha.le, Nat.mod_self]

/-- Settles O11, law by law. -/
theorem ringLawsForEveryModulus : Obligations.RingLawsForEveryModulus := by
  intro a b c p ha hb _
  have hp : 0 < p := Nat.zero_lt_of_lt ha
  exact ⟨modadd_lt a b hp, modsub_lt b ha, modmul_lt a b hp, modadd_comm a b p, modmul_comm a b p,
    modadd_assoc a b c p, modmul_assoc a b c p, modmul_modadd a b c p,
    fun _ => modadd_eq_iff_eq_modsub ha hb, modadd_neg ha⟩

theorem modpow_lt {p : Nat} (a e : Nat) (hp : 0 < p) : modpow a e p < p := Nat.mod_lt _ hp

/-- R90: one more factor. -/
theorem modpow_succ (a e p : Nat) : modpow a (e + 1) p = modmul (modpow a e p) a p := by
  rw [modpow, modpow, modmul, Nat.mod_mul_mod, Nat.pow_succ]

/-- R90: the two definitions of the power agree. -/
theorem modpow_eq_modpowIter (a e p : Nat) : modpow a e p = modpowIter a p e := by
  induction e with
  | zero => rfl
  | succ e ih => rw [modpow_succ, ih, modpowIter]

theorem modpow_one {a p : Nat} (ha : a < p) : modpow a 1 p = a := by
  rw [modpow, Nat.pow_one, Nat.mod_eq_of_lt ha]

/-- Settles O12: the iteration multiplies once for each unit of the exponent. -/
theorem exponentiationIsIteratedMultiplication : Obligations.ExponentiationIsIteratedMultiplication :=
  fun a e p ha => ⟨rfl, modpow_eq_modpowIter a e p, modpow_lt a e (Nat.zero_lt_of_lt ha), rfl, modpow_one ha⟩

theorem modpow_add (a e1 e2 p : Nat) : modpow a (e1 + e2) p = modmul (modpow a e1 p) (modpow a e2 p) p := by
  simp only [modpow, modmul, Nat.mod_mul_mod, Nat.mul_mod_mod, Nat.pow_add]

/-- R96: over a prime, dividing a product by one factor gives the other. -/
theorem moddiv_modmul_cancel {a b p : Nat} (hp : p.Prime) (ha : a < p) (hb : b < p) (hne : b ≠ 0) :
    moddiv (modmul a b p) b p = a := by
  rw [moddiv, modmul_assoc, modmul_modinv_of_prime hp hb hne, modmul, Nat.mul_one, Nat.mod_eq_of_lt ha]

/-- Settles O14: division is multiplication by the Fermat power, which over a prime is the inverse. -/
theorem divisionLaws : Obligations.DivisionLaws :=
  ⟨fun a e1 e2 p _ => modpow_add a e1 e2 p,
    fun _ _ _ hp ha hb hne => ⟨modmul_modinv_of_prime hp hb hne, moddiv_modmul_cancel hp ha hb hne,
      fun hne => modmul_modinv_of_prime hp ha hne⟩,
    fun _ _ _ _ => rfl⟩

end Sys2Proof.Machine

/-! Point addition, case by case (spec/42_point_arithmetic.md R102). -/
namespace Sys2Proof.Machine

/-- R102 step 2: a vertical line meets the curve in no third point. -/
theorem addConcrete_vertical (P : Point) {x1 y1 x2 y2 p : Nat} (hx : x1 = x2) (hy : modadd y1 y2 p = 0) :
    addConcrete P x1 y1 x2 y2 p = .ok ⟨P.a, P.b, .infinity⟩ :=
  if_pos ⟨hx, hy⟩

/-- R102 step 3. -/
theorem addConcrete_double (P : Point) {x1 y1 x2 y2 p : Nat} (hx : x1 = x2) (hy : modadd y1 y2 p ≠ 0)
    (heq : y1 = y2) :
    addConcrete P x1 y1 x2 y2 p = thirdPoint P x1 y1 x2 (doublingSlope P.a.value x1 y1 p) p := by
  rw [addConcrete, if_neg fun h => hy h.2, if_pos ⟨hx, heq⟩]

/-- R102 step 4. -/
theorem addConcrete_chord (P : Point) {x1 y1 x2 y2 p : Nat} (hx : x1 ≠ x2) :
    addConcrete P x1 y1 x2 y2 p = thirdPoint P x1 y1 x2 (chordSlope x1 y1 x2 y2 p) p := by
  rw [addConcrete, if_neg fun h => hx h.1, if_neg fun h => hx h.1, if_pos hx]

/-- R102: the case left over. -/
theorem addConcrete_leftover (P : Point) {x1 y1 x2 y2 p : Nat} (hx : x1 = x2) (hy : modadd y1 y2 p ≠ 0)
    (hne : y1 ≠ y2) : addConcrete P x1 y1 x2 y2 p = .error .internal := by
  rw [addConcrete, if_neg fun h => hy h.2, if_neg fun h => hne h.2, if_neg (not_not.mpr hx)]

/-- R102 step 3: repeated addition gives the factors 3 and 2. -/
theorem doublingSlope_eq (a x1 y1 p : Nat) :
    doublingSlope a x1 y1 p = moddiv ((3 * x1 ^ 2 + a) % p) ((2 * y1) % p) p := by
  have hnum : modadd (modadd (modadd (modmul x1 x1 p) (modmul x1 x1 p) p) (modmul x1 x1 p) p) a p =
      (3 * x1 ^ 2 + a) % p := by
    simp only [modadd, modmul, Nat.mod_add_mod, Nat.add_mod_mod]
    congr 1
    ring
  rw [doublingSlope, hnum, modadd, Nat.two_mul]

/-- Settles O17, step by step. -/
theorem pointAdditionCases : Obligations.PointAdditionCases := by
  refine ⟨fun p q => ecadd_of_different_curves, ecadd_infinity_left, ecadd_infinity_right,
    fun a b x1 y1 x2 y2 hx hy => ?_, fun a b x1 y1 x2 y2 hx hy heq => ?_, fun a b x1 y1 x2 y2 hx => ?_,
    fun a b x1 y1 x2 y2 hx hy hne => ?_⟩
  · rw [ecadd_onCurve, addConcrete_vertical _ hx hy]
  · rw [ecadd_onCurve, addConcrete_double _ hx hy heq, doublingSlope_eq]
  · rw [ecadd_onCurve, addConcrete_chord _ hx, chordSlope]
  · rw [ecadd_onCurve, addConcrete_leftover _ hx hy hne]

/-- R71: the difference and the subtrahend sum to the minuend, modulo `p`. -/
theorem modsub_add_modEq (a : Nat) {b p : Nat} (hb : b ≤ p) : modsub a b p + b ≡ a [MOD p] := by
  rw [← ZMod.natCast_eq_natCast_iff, Nat.cast_add, natCast_modsub a hb, sub_add_cancel]

/-- R102 step 5: the third point by the congruences of its coordinates. -/
theorem thirdPoint_spec (P : Point) {x1 y1 x2 p : Nat} (s : Nat) (hx1 : x1 < p) (hy1 : y1 < p) (hx2 : x2 < p) :
    ∃ x3 y3 : Nat, x3 < p ∧ y3 < p ∧
      (x3 + x1 + x2 ≡ s * s [MOD p]) ∧ (y3 + y1 + s * x3 ≡ s * x1 [MOD p]) ∧
      thirdPoint P x1 y1 x2 s p =
        if oncurve P.a.value P.b.value x3 y3 p then .ok ⟨P.a, P.b, .onCurve ⟨x3, p⟩ ⟨y3, p⟩⟩
        else .error .internal := by
  have hp : 0 < p := Nat.zero_lt_of_lt hx1
  have hx3 : modsub (modsub (modmul s s p) x1 p) x2 p < p := modsub_lt x2 (modsub_lt x1 (modmul_lt s s hp))
  refine ⟨_, _, hx3, modsub_lt y1 (modmul_lt s _ hp), ?_, ?_, rfl⟩
  · rw [← ZMod.natCast_eq_natCast_iff]
    push_cast
    rw [natCast_modsub _ hx2.le, natCast_modsub _ hx1.le, natCast_modmul]
    ring
  · rw [← ZMod.natCast_eq_natCast_iff]
    push_cast
    rw [natCast_modsub _ hy1.le, natCast_modmul, natCast_modsub _ hx3.le]
    ring

/-- Settles O18: the divisors are what the order of the steps has tested. -/
theorem thirdPointIsCheckedAndDivisorsAreNotZero : Obligations.ThirdPointIsCheckedAndDivisorsAreNotZero :=
  ⟨fun P _ _ _ s _ hx1 hy1 hx2 => thirdPoint_spec P s hx1 hy1 hx2, fun _ _ _ hne heq => heq ▸ hne,
    fun _ _ _ hx1 _ hne => modsub_ne_zero hx1 hne.symm⟩

/-- Settles O19: a sum is a summand, the infinity of the curve, or a third point that passed its check. -/
theorem pointAdditionStaysOnTheCurve : Obligations.PointAdditionStaysOnTheCurve := by
  intro p q r hp hq hr
  obtain ⟨-, ha, hb⟩ := ecadd_eq_ok_curve hr
  exact ⟨ecadd_lawful hp hq hr, ha, hb⟩

end Sys2Proof.Machine

/-! The laws of point addition (spec/42_point_arithmetic.md section 3). -/
namespace Sys2Proof.Machine

/-- R107: a point and the point of the opposite ordinate. -/
theorem ecadd_neg {a b x y : FE} (h : (⟨a, b, .onCurve x y⟩ : Point).Lawful) :
    ecadd ⟨a, b, .onCurve x y⟩ ⟨a, b, .onCurve x ⟨modsub 0 y.value y.prime, y.prime⟩⟩ =
      .ok ⟨a, b, .infinity⟩ := by
  obtain ⟨-, -, -, hy, hab, hbx, hxy, -⟩ := h
  have hp : 0 < y.prime := Nat.zero_lt_of_lt hy
  rw [ecadd_onCurve, addConcrete_vertical _ rfl]
  rw [hab, hbx, hxy, modadd_comm]
  exact (modadd_eq_iff_eq_modsub hp hy (modsub_lt y.value hp)).mpr rfl

/-- R107: a point of ordinate 0 is its own inverse. -/
theorem ecadd_self_of_ordinate_zero {a b x y : FE} (hy : y.value = 0) :
    ecadd ⟨a, b, .onCurve x y⟩ ⟨a, b, .onCurve x y⟩ = .ok ⟨a, b, .infinity⟩ := by
  rw [ecadd_onCurve, addConcrete_vertical _ rfl]
  rw [hy, modadd, Nat.add_zero, Nat.zero_mod]

theorem ecadd_identity_left (q : Point) : ecadd ⟨q.a, q.b, .infinity⟩ q = .ok q := ecadd_infinity_left q.a q.b q.c

theorem ecadd_identity_right (q : Point) : ecadd q ⟨q.a, q.b, .infinity⟩ = .ok q := ecadd_infinity_right q.a q.b q.c

/-- R107: the point `(x, y)` with the constants of `y² = x³` over 7. -/
def cuspidalOver7 (x y : Nat) : Point := ⟨⟨0, 7⟩, ⟨0, 7⟩, .onCurve ⟨x, 7⟩ ⟨y, 7⟩⟩

theorem cuspidalOver7_lawful {x y : Nat} (hx : x < 7) (hy : y < 7) (hcurve : oncurve 0 0 x y 7 = true) :
    (cuspidalOver7 x y).Lawful :=
  ⟨Nat.succ_pos 6, Nat.succ_pos 6, hx, hy, rfl, rfl, rfl, hcurve⟩

/-- R107, with `Z = (0, 0)` the singular point and `R = (1, 1)`: `(Z + Z) + R = R`, but `Z + (Z + R) = Z + Z` is
infinity. -/
theorem ecadd_not_assoc :
    (ecadd (cuspidalOver7 0 0) (cuspidalOver7 0 0)).bind (fun u => ecadd u (cuspidalOver7 1 1)) ≠
      (ecadd (cuspidalOver7 0 0) (cuspidalOver7 1 1)).bind (fun v => ecadd (cuspidalOver7 0 0) v) := by
  decide

/-- Settles O20; associativity fails at the singular point of `y² = x³` over 7. -/
theorem groupLawsOfEveryModulus : Obligations.GroupLawsOfEveryModulus :=
  ⟨fun q => ⟨ecadd_identity_left q, ecadd_identity_right q⟩, fun _ _ _ _ => ecadd_neg,
    fun _ _ _ _ => ecadd_self_of_ordinate_zero,
    cuspidalOver7 0 0, cuspidalOver7 1 1, cuspidalOver7_lawful (by decide) (by decide) (by decide),
    cuspidalOver7_lawful (by decide) (by decide) (by decide), ecadd_not_assoc⟩

/-- R102 step 4: over a prime, the slope of a chord is the one whose product with the divisor is the dividend. -/
theorem natCast_chordSlope_mul {x1 y1 x2 y2 p : Nat} (hp : p.Prime) (hx1 : x1 < p) (hy1 : y1 < p) (hx2 : x2 < p)
    (hne : x1 ≠ x2) : (chordSlope x1 y1 x2 y2 p : ZMod p) * (x2 - x1) = y2 - y1 := by
  rw [← natCast_modsub x2 hx1.le, chordSlope,
    natCast_moddiv_mul _ hp (modsub_lt x1 hx2) (modsub_ne_zero hx1 hne.symm), natCast_modsub y2 hy1.le]

theorem chordSlope_lt {p : Nat} (x1 y1 x2 y2 : Nat) (hp : 0 < p) : chordSlope x1 y1 x2 y2 p < p := modmul_lt _ _ hp

/-- R102 step 4: a chord has one slope, whichever end it is read from. -/
theorem chordSlope_comm {x1 y1 x2 y2 p : Nat} (hp : p.Prime) (hx1 : x1 < p) (hy1 : y1 < p) (hx2 : x2 < p)
    (hy2 : y2 < p) (hne : x1 ≠ x2) : chordSlope x1 y1 x2 y2 p = chordSlope x2 y2 x1 y1 p := by
  have : Fact p.Prime := ⟨hp⟩
  have hdx : (x2 - x1 : ZMod p) ≠ 0 := sub_ne_zero.mpr ((natCast_zmod_inj hx2 hx1).not.mpr hne.symm)
  rw [← natCast_zmod_inj (chordSlope_lt _ _ _ _ hp.pos) (chordSlope_lt _ _ _ _ hp.pos)]
  refine mul_right_cancel₀ hdx ?_
  linear_combination natCast_chordSlope_mul (y2 := y2) hp hx1 hy1 hx2 hne +
    natCast_chordSlope_mul (y2 := y1) hp hx2 hy2 hx1 hne.symm

/-- R102 step 5: the third point of a line is the same from either of two points it goes through. -/
theorem thirdPoint_comm {P Q : Point} {x1 y1 x2 y2 s p : Nat} (ha : P.a = Q.a) (hb : P.b = Q.b) (hx1 : x1 < p)
    (hy1 : y1 < p) (hx2 : x2 < p) (hy2 : y2 < p) (hs : (s : ZMod p) * (x2 - x1) = y2 - y1) :
    thirdPoint P x1 y1 x2 s p = thirdPoint Q x2 y2 x1 s p := by
  have hp : 0 < p := Nat.zero_lt_of_lt hx1
  have hx3 : modsub (modsub (modmul s s p) x1 p) x2 p = modsub (modsub (modmul s s p) x2 p) x1 p := by
    rw [← natCast_zmod_inj (modsub_lt x2 (modsub_lt x1 (modmul_lt s s hp)))
      (modsub_lt x1 (modsub_lt x2 (modmul_lt s s hp))), natCast_modsub _ hx2.le, natCast_modsub _ hx1.le,
      natCast_modsub _ hx1.le, natCast_modsub _ hx2.le]
    ring
  have hy3 : ∀ x3, x3 < p →
      modsub (modmul s (modsub x1 x3 p) p) y1 p = modsub (modmul s (modsub x2 x3 p) p) y2 p := by
    intro x3 hlt
    rw [← natCast_zmod_inj (modsub_lt y1 (modmul_lt _ _ hp)) (modsub_lt y2 (modmul_lt _ _ hp)),
      natCast_modsub _ hy1.le, natCast_modsub _ hy2.le, natCast_modmul, natCast_modmul, natCast_modsub _ hlt.le,
      natCast_modsub _ hlt.le]
    linear_combination -hs
  simp only [thirdPoint, ha, hb, hx3, hy3 _ (modsub_lt x1 (modsub_lt x2 (modmul_lt s s hp)))]

/-- R102 steps 2 to 5: over a prime, the order of two points does not matter. -/
theorem addConcrete_comm {P Q : Point} {x1 y1 x2 y2 p : Nat} (hp : p.Prime) (ha : P.a = Q.a) (hb : P.b = Q.b)
    (hx1 : x1 < p) (hy1 : y1 < p) (hx2 : x2 < p) (hy2 : y2 < p) :
    addConcrete P x1 y1 x2 y2 p = addConcrete Q x2 y2 x1 y1 p := by
  by_cases hx : x1 = x2
  · subst hx
    by_cases hy : modadd y1 y2 p = 0
    · rw [addConcrete_vertical P rfl hy, addConcrete_vertical Q rfl (modadd_comm y2 y1 p ▸ hy), ha, hb]
    · have hy' : modadd y2 y1 p ≠ 0 := modadd_comm y1 y2 p ▸ hy
      by_cases heq : y1 = y2
      · subst heq
        rw [addConcrete_double P rfl hy rfl, addConcrete_double Q rfl hy rfl, ha]
        exact thirdPoint_comm ha hb hx1 hy1 hx1 hy1 (by ring)
      · rw [addConcrete_leftover P rfl hy heq, addConcrete_leftover Q rfl hy' (Ne.symm heq)]
  · rw [addConcrete_chord P hx, addConcrete_chord Q (Ne.symm hx), ← chordSlope_comm hp hx1 hy1 hx2 hy2 hx]
    exact thirdPoint_comm ha hb hx1 hy1 hx2 hy2 (natCast_chordSlope_mul hp hx1 hy1 hx2 hx)

/-- Settles O21: an infinity is the identity on both sides, and two concrete points share their line. -/
theorem pointAdditionCommutesForPrimes : Obligations.PointAdditionCommutesForPrimes := by
  intro p q hp hq ha hb hprime
  obtain ⟨a, b, c⟩ := p
  obtain ⟨_, _, d⟩ := q
  obtain ⟨rfl, rfl⟩ : a = _ ∧ b = _ := ⟨ha, hb⟩
  cases c with
  | infinity => rw [ecadd_infinity_left, ecadd_infinity_right]
  | onCurve x1 y1 =>
    cases d with
    | infinity => rw [ecadd_infinity_left, ecadd_infinity_right]
    | onCurve x2 y2 =>
      obtain ⟨hx1, hy1, -⟩ := hp.coords rfl
      obtain ⟨hx2, hy2, -⟩ := hq.coords rfl
      rw [ecadd_onCurve, ecadd_onCurve]
      exact addConcrete_comm hprime rfl rfl hx1 hy1 hx2 hy2

/-- Settles O22: over a prime the lines of `ecadd` stay on the curve; the two sums modulo 4 are evaluated (D12). -/
theorem internalIsUnreachableForPrimes : Obligations.InternalIsUnreachableForPrimes :=
  ⟨fun _ _ => ecadd_ok_of_prime, by decide, by decide⟩

/-- Settles O36: the sum exists, and it is a lawful point of the curve. -/
theorem paddCompletesForPrimes : Obligations.PaddCompletesForPrimes := by
  intro s pd pa pb p q hfp hfq hp hq ha hb hprime
  obtain ⟨r, hr⟩ := ecadd_ok_of_prime hp hq ha hb hprime
  obtain ⟨hlawful, hra, hrb⟩ := pointAdditionStaysOnTheCurve p q r hp hq hr
  obtain ⟨-, hwrites, -⟩ := paddAddsPoints s pd pa pb
  exact ⟨r, hlawful, hra, hrb, hr, hwrites p q r hfp hfq hr⟩

end Sys2Proof.Machine

/-! The consequences of the fold of `ecmul` (spec/43_scalar_multiplication.md section 1). -/
namespace Sys2Proof.Machine

theorem ecmul_zero (P : Point) : ecmul P 0 = .ok ⟨P.a, P.b, .infinity⟩ := rfl

/-- R120: the next multiple. -/
theorem ecmul_succ_of_ok {P R : Point} {k : Nat} (h : ecmul P k = .ok R) : ecmul P (k + 1) = ecadd R P := by
  rw [ecmul_succ, h, Except.ok_bind]

/-- R120: a status ends the fold. -/
theorem ecmul_succ_of_error {P : Point} {k : Nat} {st : Status} (h : ecmul P k = .error st) :
    ecmul P (k + 1) = .error st := by
  rw [ecmul_succ, h, Except.error_bind]

theorem ecmul_one (P : Point) : ecmul P 1 = .ok P := by
  rw [ecmul_succ_of_ok (ecmul_zero P), ecadd_identity_left]

theorem ecmul_two (P : Point) : ecmul P 2 = ecadd P P := ecmul_succ_of_ok (ecmul_one P)

/-- R120: the multiples of infinity. -/
theorem ecmul_infinity {P : Point} (hc : P.c = .infinity) (k : Nat) : ecmul P k = .ok P := by
  obtain ⟨a, b, c⟩ := P
  obtain rfl : c = .infinity := hc
  induction k with
  | zero => exact ecmul_zero _
  | succ k ih => rw [ecmul_succ_of_ok ih, ecadd_infinity_left]

/-- R120: the multiples of a point of ordinate 0, which has order 2. -/
theorem ecmul_of_ordinate_zero {P : Point} {x y : FE} (hc : P.c = .onCurve x y) (hy : y.value = 0) (k : Nat) :
    ecmul P k = .ok (if k % 2 = 1 then P else ⟨P.a, P.b, .infinity⟩) := by
  obtain ⟨a, b, c⟩ := P
  obtain rfl : c = .onCurve x y := hc
  induction k with
  | zero => exact ecmul_zero _
  | succ k ih =>
    rw [ecmul_succ_of_ok ih]
    rcases Nat.mod_two_eq_zero_or_one k with hk | hk
    · rw [if_neg (by omega), if_pos (by omega), ecadd_infinity_left]
    · rw [if_pos hk, if_neg (by omega), ecadd_self_of_ordinate_zero hy]

/-- Settles O23, consequence by consequence. -/
theorem scalarMultiplicationIsRepeatedAddition : Obligations.ScalarMultiplicationIsRepeatedAddition := by
  refine ⟨fun P => ⟨ecmul_zero P, ecmul_one P, ecmul_two P⟩, fun _ _ _ => ecmul_succ_of_ok,
    fun _ _ => ecmul_succ_of_error, fun _ k hc => ecmul_infinity hc k, fun _ _ _ => ecmul_eq_error,
    fun P k st hP hprime hst => ?_, fun _ _ _ k hc hy => ecmul_of_ordinate_zero hc hy k⟩
  obtain ⟨R, hR⟩ := ecmul_ok_of_prime hP hprime k
  cases hR.symm.trans hst

end Sys2Proof.Machine

/-! What the rule of an instruction can end in, said once: the effects it can have, and the statuses of its list
(spec/60_exceptions.md R141, R142). -/
namespace Sys2Proof.Machine

/-- A computation ends in a value of which `P` holds, or in a status of the list. -/
def Ends {α : Type} (x : Except Status α) (P : α → Prop) (sts : List Status) : Prop :=
  (∀ v, x = .ok v → P v) ∧ ∀ st, x = .error st → st ∈ sts

namespace Ends

variable {α β : Type} {P : α → Prop} {Q : β → Prop} {sts : List Status}

theorem ok {v : α} (h : P v) : Ends (.ok v) P sts := ⟨fun _ hv => Except.ok.inj hv ▸ h, by simp⟩

theorem error {st : Status} (h : st ∈ sts) : Ends (.error st) P sts :=
  ⟨by simp, fun _ hst => Except.error.inj hst ▸ h⟩

theorem bind {x : Except Status α} {k : α → Except Status β} (hx : Ends x P sts) (hk : ∀ v, P v → Ends (k v) Q sts) :
    Ends (x >>= k) Q sts := by
  obtain ⟨hok, herror⟩ := hx
  cases x with
  | error st => exact .error (herror st rfl)
  | ok v => exact hk v (hok v rfl)

/-- R23: a read. -/
theorem readF {s : State} {r : FReg} (h : .emptyRegister ∈ sts := by simp [Instr.statuses]) :
    Ends (s.readF r) (s.f[r] = .full ·) sts :=
  ⟨fun _ => State.readF_eq_ok.mp, fun _ hst => (State.readF_eq_error.mp hst).2 ▸ h⟩

/-- R23: a read of a point. -/
theorem readPT {s : State} {r : PReg} (h : .emptyRegister ∈ sts := by simp [Instr.statuses]) :
    Ends (s.readPT r) (s.pt[r] = .full ·) sts :=
  ⟨fun _ => State.readPT_eq_ok.mp, fun _ hst => (State.readPT_eq_error.mp hst).2 ▸ h⟩

/-- R142: a check. -/
theorem require {b : Bool} {st : Status} (h : st ∈ sts := by simp [Instr.statuses]) :
    Ends (require b st) (fun _ => b = true) sts :=
  ⟨fun _ => require_eq_ok.mp, fun _ hst => (require_eq_error.mp hst).2 ▸ h⟩

/-- R102: a sum of points. -/
theorem ecadd {p q : Point} (hcurve : .fieldMismatch ∈ sts := by simp [Instr.statuses])
    (hinternal : .internal ∈ sts := by simp [Instr.statuses]) :
    Ends (ecadd p q) (Machine.ecadd p q = .ok ·) sts :=
  ⟨fun _ => id, fun _ hst => (ecadd_eq_error hst).elim (· ▸ hcurve) (· ▸ hinternal)⟩

/-- R120: a multiple of a point. -/
theorem ecmul {p : Point} {k : Nat} (h : .internal ∈ sts := by simp [Instr.statuses]) :
    Ends (ecmul p k) (Machine.ecmul p k = .ok ·) sts :=
  ⟨fun _ => id, fun _ hst => ecmul_eq_error hst ▸ h⟩

end Ends

/-- The effects an instruction can have in a state, one case for each instruction that can succeed: PNEW.X and PNEW.Y
cannot (R103). -/
inductive Gives (s : State) : Instr → Effect → Prop
  | stat : Gives s .stat {}
  | fnew {fd : FReg} (h : s.din0 < s.din1) : Gives s (.fnew fd) { write := .toF fd ⟨s.din0, s.din1⟩ }
  | fadd {fd fa fb : FReg} {a b : FE} (ha : s.f[fa] = .full a) (hb : s.f[fb] = .full b) (hp : a.prime = b.prime) :
    Gives s (.fadd fd fa fb) { write := .toF fd ⟨modadd a.value b.value a.prime, a.prime⟩ }
  | fsub {fd fa fb : FReg} {a b : FE} (ha : s.f[fa] = .full a) (hb : s.f[fb] = .full b) (hp : a.prime = b.prime) :
    Gives s (.fsub fd fa fb) { write := .toF fd ⟨modsub a.value b.value a.prime, a.prime⟩ }
  | fmul {fd fa fb : FReg} {a b : FE} (ha : s.f[fa] = .full a) (hb : s.f[fb] = .full b) (hp : a.prime = b.prime) :
    Gives s (.fmul fd fa fb) { write := .toF fd ⟨modmul a.value b.value a.prime, a.prime⟩ }
  | fpow {fd fa : FReg} {a : FE} (ha : s.f[fa] = .full a) :
    Gives s (.fpow fd fa) { write := .toF fd ⟨modpow a.value s.din0 a.prime, a.prime⟩ }
  | finv {fd fb : FReg} {b : FE} (hb : s.f[fb] = .full b) (hne : b.value ≠ 0) :
    Gives s (.finv fd fb) { write := .toF fd ⟨modinv b.value b.prime, b.prime⟩ }
  | fdiv {fd fa fb : FReg} {a b : FE} (ha : s.f[fa] = .full a) (hb : s.f[fb] = .full b) (hp : a.prime = b.prime)
    (hne : b.value ≠ 0) :
    Gives s (.fdiv fd fa fb) { write := .toF fd ⟨moddiv a.value b.value a.prime, a.prime⟩ }
  | feq {fa fb : FReg} {a b : FE} (ha : s.f[fa] = .full a) (hb : s.f[fb] = .full b) :
    Gives s (.feq fa fb) { flag := feqFlag a b }
  | fget {fa : FReg} {a : FE} (ha : s.f[fa] = .full a) : Gives s (.fget fa) { dout := fgetDout a }
  | pnewN {pd : PReg} {fa fb : FReg} {a b : FE} (ha : s.f[fa] = .full a) (hb : s.f[fb] = .full b) :
    Gives s (.pnewN pd fa fb) { write := .toPT pd ⟨a, b, .infinity⟩ }
  | pnewXY {pd : PReg} {fa fb fx fy : FReg} {a b x y : FE} (ha : s.f[fa] = .full a) (hb : s.f[fb] = .full b)
    (hx : s.f[fx] = .full x) (hy : s.f[fy] = .full y) (hp : onePrime a b x y = true)
    (hcurve : oncurve a.value b.value x.value y.value a.prime = true) :
    Gives s (.pnewXY pd fa fb fx fy) { write := .toPT pd ⟨a, b, .onCurve x y⟩ }
  | padd {pd pa pb : PReg} {p q r : Point} (hp : s.pt[pa] = .full p) (hq : s.pt[pb] = .full q)
    (hr : ecadd p q = .ok r) : Gives s (.padd pd pa pb) { write := .toPT pd r }
  | pmul {pd pa : PReg} {p r : Point} (hp : s.pt[pa] = .full p) (hr : ecmul p s.din0 = .ok r) :
    Gives s (.pmul pd pa) { write := .toPT pd r }
  | peq {pa pb : PReg} {p q : Point} (hp : s.pt[pa] = .full p) (hq : s.pt[pb] = .full q) :
    Gives s (.peq pa pb) { flag := peqFlag p q }
  | pget {pa : PReg} {p : Point} (hp : s.pt[pa] = .full p) :
    Gives s (.pget pa) { flag := pgetFlag p, dout := pgetDout p }

/-- R75 to R77: a rule of one unit ends in the unit's result, or in a status of such a rule. -/
theorem binaryField_ends {unit : Nat → Nat → Nat → Nat} {fd fa fb : FReg} {s : State} {P : Effect → Prop}
    (h : ∀ a b, s.f[fa] = .full a → s.f[fb] = .full b → a.prime = b.prime →
      P { write := .toF fd ⟨unit a.value b.value a.prime, a.prime⟩ }) :
    Ends (binaryField unit fd fa fb s) P [.ok, .emptyRegister, .fieldMismatch] :=
  .bind .readF fun a ha => .bind .readF fun b hb =>
    .bind .require fun _ hp => .ok (h a b ha hb (beq_iff_eq.mp hp))

/-- R103, forms X and Y: a lone coordinate never succeeds. -/
theorem loneCoordinate_ends {fa fb fc : FReg} {s : State} {P : Effect → Prop} :
    Ends (loneCoordinate fa fb fc s) P [.emptyRegister, .invalidInfinity] :=
  .bind .readF fun _ _ => .bind .readF fun _ _ => .bind .readF fun _ _ =>
    .error (by decide)

/-- R141, R142: everything an instruction's rule can end in. -/
theorem ruleOf_ends (i : Instr) (s : State) : Ends (ruleOf i s) (Gives s i) i.statuses := by
  cases i with
  | stat => exact .ok .stat
  | fnew fd => exact .bind .require fun _ h => .ok (.fnew (of_decide_eq_true h))
  | fadd fd fa fb => exact binaryField_ends fun _ _ => .fadd
  | fsub fd fa fb => exact binaryField_ends fun _ _ => .fsub
  | fmul fd fa fb => exact binaryField_ends fun _ _ => .fmul
  | fpow fd fa => exact .bind .readF fun _ ha => .ok (.fpow ha)
  | finv fd fb => exact .bind .readF fun _ hb => .bind .require fun _ hne => .ok (.finv hb (bne_iff_ne.mp hne))
  | fdiv fd fa fb =>
    exact .bind .readF fun _ ha => .bind .readF fun _ hb => .bind .require fun _ hp => .bind .require fun _ hne =>
      .ok (.fdiv ha hb (beq_iff_eq.mp hp) (bne_iff_ne.mp hne))
  | feq fa fb => exact .bind .readF fun _ ha => .bind .readF fun _ hb => .ok (.feq ha hb)
  | fget fa => exact .bind .readF fun _ ha => .ok (.fget ha)
  | pnewN pd fa fb => exact .bind .readF fun _ ha => .bind .readF fun _ hb => .ok (.pnewN ha hb)
  | pnewY pd fa fb fy => exact loneCoordinate_ends
  | pnewX pd fa fb fx => exact loneCoordinate_ends
  | pnewXY pd fa fb fx fy =>
    exact .bind .readF fun _ ha => .bind .readF fun _ hb => .bind .readF fun _ hx => .bind .readF fun _ hy =>
      .bind .require fun _ hp => .bind .require fun _ hcurve => .ok (.pnewXY ha hb hx hy hp hcurve)
  | padd pd pa pb =>
    exact .bind .readPT fun _ hp => .bind .readPT fun _ hq => .bind .ecadd fun _ hr => .ok (.padd hp hq hr)
  | pmul pd pa => exact .bind .readPT fun _ hp => .bind .ecmul fun _ hr => .ok (.pmul hp hr)
  | peq pa pb => exact .bind .readPT fun _ hp => .bind .readPT fun _ hq => .ok (.peq hp hq)
  | pget pa => exact .bind .readPT fun _ hp => .ok (.pget hp)

end Sys2Proof.Machine

/-! Rules about every command, from what its rule can end in (spec/10_state.md R20 to R22, spec/30_encoding.md R53,
spec/60_exceptions.md R141, R144). -/
namespace Sys2Proof.Machine

/-- What an instruction does to the state: STAT answers, and every other instruction fails with a status of its list or
has one of its effects. -/
theorem exec_cases (i : Instr) (s : State) :
    (i = .stat ∧ exec i s = .next (s.respond ⟨.ok, false, statDout s.status⟩)) ∨
    (i ≠ .stat ∧ ∃ st ∈ i.statuses, exec i s = .next (s.raise st)) ∨
    (i ≠ .stat ∧ ∃ e, Gives s i e ∧ exec i s = .next ((s.write e.write).finish e.flag e.dout)) := by
  by_cases hi : i = .stat
  · subst hi
    exact .inl ⟨rfl, exec_stat s⟩
  · obtain ⟨hok, herror⟩ := ruleOf_ends i s
    have hexec := exec_eq_commit i s hi
    rcases s.commit_cases (ruleOf i s) with ⟨st, hst, hcommit⟩ | ⟨e, he, hcommit⟩ <;> rw [hcommit] at hexec
    · exact .inr (.inl ⟨hi, st, herror st hst, hexec⟩)
    · exact .inr (.inr ⟨hi, e, hok e he, hexec⟩)

/-- The field-element register a write is to. -/
def Write.destF : Write → Option FReg
  | .toF rd _ => some rd
  | .toPT _ _ => .none
  | .none => .none

/-- The point register a write is to. -/
def Write.destPT : Write → Option PReg
  | .toPT rd _ => some rd
  | .toF _ _ => .none
  | .none => .none

/-- R20: a write leaves the other field-element registers alone. -/
theorem State.write_f_of_ne (s : State) {w : Write} {j : FReg} (h : w.destF ≠ some j) :
    (s.write w).f[j] = s.f[j] := by
  cases w with
  | none => rfl
  | toPT rd v => rfl
  | toF rd v => exact Vector.getElem_set_ne rd.isLt j.isLt fun hval => h (congrArg some (Fin.ext hval))

/-- R21: a write leaves the other point registers alone. -/
theorem State.write_pt_of_ne (s : State) {w : Write} {j : PReg} (h : w.destPT ≠ some j) :
    (s.write w).pt[j] = s.pt[j] := by
  cases w with
  | none => rfl
  | toF rd v => rfl
  | toPT rd v => exact Vector.getElem_set_ne rd.isLt j.isLt fun hval => h (congrArg some (Fin.ext hval))

/-- R20, R21: an instruction that succeeds writes its destination. -/
theorem Gives.write_dest {s : State} {i : Instr} {e : Effect} (h : Gives s i e) :
    e.write.destF = i.destF ∧ e.write.destPT = i.destPT := by
  cases h <;> exact ⟨rfl, rfl⟩

/-- Settles O40: a failure writes no register, and an effect is to the destination. -/
theorem onlyTheDestinationIsWritten : Obligations.OnlyTheDestinationIsWritten := by
  intro i s
  rcases exec_cases i s with ⟨hi, h⟩ | ⟨hi, st, -, h⟩ | ⟨hi, e, he, h⟩
  · exact ⟨_, _, h, rfl, fun _ _ => rfl, fun _ _ => rfl, fun _ => rfl, fun hne => absurd hi hne, rfl, rfl⟩
  · exact ⟨_, _, h, rfl, fun _ _ => rfl, fun _ _ => rfl, fun heq => absurd heq hi, fun _ => rfl, rfl, rfl⟩
  · obtain ⟨hdestF, hdestPT⟩ := he.write_dest
    exact ⟨_, _, h, rfl, fun _ hj => s.write_f_of_ne (hdestF ▸ hj), fun _ hj => s.write_pt_of_ne (hdestPT ▸ hj),
      fun heq => absurd heq hi, fun _ => rfl, s.write_inputs e.write, s.write_collected e.write⟩

/-- R143, R146: every instruction answers. -/
theorem exec_responds (i : Instr) (s : State) : ∃ t r, exec i s = .next t ∧ t.port = .done r := by
  obtain ⟨t, r, h, hport, -⟩ := onlyTheDestinationIsWritten i s
  exact ⟨t, r, h, hport⟩

/-- R141: an instruction that can succeed lists `OK`. -/
theorem Gives.ok_mem {s : State} {i : Instr} {e : Effect} (h : Gives s i e) : .ok ∈ i.statuses := by
  cases h <;> exact List.mem_cons_self

/-- Everything a response can be. -/
theorem response_cases {i : Instr} {s t : State} {r : Response} (h : exec i s = .next t) (hr : t.port = .done r) :
    (i = .stat ∧ r = ⟨.ok, false, statDout s.status⟩) ∨ (∃ st ∈ i.statuses, r = ⟨st, false, Dout.zero⟩) ∨
      ∃ e, Gives s i e ∧ r = ⟨.ok, e.flag, e.dout⟩ := by
  rcases exec_cases i s with ⟨hi, hexec⟩ | ⟨-, st, hst, hexec⟩ | ⟨-, e, he, hexec⟩ <;>
    obtain rfl := Host.Outcome.next.inj (h.symm.trans hexec)
  · exact .inl ⟨hi, (Port.done.inj hr).symm⟩
  · exact .inr (.inl ⟨st, hst, (Port.done.inj hr).symm⟩)
  · exact .inr (.inr ⟨e, he, (Port.done.inj hr).symm⟩)

/-- Settles O43, by the three kinds of response. -/
theorem onlyListedStatusesAreAnswered : Obligations.OnlyListedStatusesAreAnswered := by
  intro i s t r h hr
  rcases response_cases h hr with ⟨rfl, rfl⟩ | ⟨st, hst, rfl⟩ | ⟨e, he, rfl⟩
  · exact List.mem_cons_self
  · exact hst
  · exact he.ok_mem

@[simp] theorem Dout.zero_getElem (k : Fin 8) : Dout.zero[k] = 0 := Vector.getElem_replicate k.isLt

/-- R53: STAT's response names one data word. -/
theorem statDout_getElem (st : Status) {k : Fin 8} (hk : 1 ≤ k.val) : (statDout st)[k] = 0 := by
  fin_cases k
  · exact absurd hk (by decide)
  all_goals rfl

/-- R53: the response of FGET names two data words. -/
theorem fgetDout_getElem (a : FE) {k : Fin 8} (hk : 2 ≤ k.val) : (fgetDout a)[k] = 0 := by
  fin_cases k
  · exact absurd hk (by decide)
  · exact absurd hk (by decide)
  all_goals rfl

/-- R53: an effect has a flag only where the rule names it. -/
theorem Gives.flag_eq_false {s : State} {i : Instr} {e : Effect} (h : Gives s i e) (hi : i.namesFlag = false) :
    e.flag = false := by
  cases h
  case feq => cases hi
  case peq => cases hi
  case pget => cases hi
  all_goals rfl

/-- R53: an effect has data words only where the rule names them. -/
theorem Gives.dout_eq_zero {s : State} {i : Instr} {e : Effect} (h : Gives s i e) {k : Fin 8}
    (hk : i.namesDout ≤ k.val) : e.dout[k] = 0 := by
  cases h
  case fget a _ => exact fgetDout_getElem a hk
  case pget => exact absurd k.isLt (Nat.not_lt.mpr hk)
  all_goals exact Dout.zero_getElem k

/-- Settles O45, by the three kinds of response. -/
theorem unnamedResponseFieldsAreZero : Obligations.UnnamedResponseFieldsAreZero := by
  intro i s t r h hr
  rcases response_cases h hr with ⟨rfl, rfl⟩ | ⟨st, -, rfl⟩ | ⟨e, he, rfl⟩
  · exact ⟨fun _ => rfl, fun _ hk => statDout_getElem s.status hk, fun hne => absurd rfl hne⟩
  · exact ⟨fun _ => rfl, fun k _ => Dout.zero_getElem k, fun _ => ⟨rfl, Dout.zero_getElem⟩⟩
  · exact ⟨he.flag_eq_false, fun _ hk => he.dout_eq_zero hk, fun hne => absurd rfl hne⟩

/-- R23, R59: an instruction with an empty source register ends `EmptyRegister`, before its own checks. -/
theorem ruleOf_of_empty_source {i : Instr} {s : State}
    (h : (∃ j ∈ i.sourcesF, s.f[j] = .empty) ∨ (∃ j ∈ i.sourcesPT, s.pt[j] = .empty)) :
    ruleOf i s = .error .emptyRegister := by
  cases i <;> simp only [Instr.sourcesF, Instr.sourcesPT, List.mem_cons, List.not_mem_nil, or_false, false_and,
    exists_false, false_or, exists_eq_or_imp, exists_eq_left] at h
  case fadd => exact State.readF_two_empty h _
  case fsub => exact State.readF_two_empty h _
  case fmul => exact State.readF_two_empty h _
  case fpow => rw [ruleOf, State.readF_empty h, Except.error_bind]
  case finv => rw [ruleOf, State.readF_empty h, Except.error_bind]
  case fdiv => exact State.readF_two_empty h _
  case feq => exact State.readF_two_empty h _
  case fget => rw [ruleOf, State.readF_empty h, Except.error_bind]
  case pnewN => exact State.readF_two_empty h _
  case pnewY => exact State.readF_three_empty h _
  case pnewX => exact State.readF_three_empty h _
  case pnewXY => exact State.readF_four_empty h _
  case padd => exact State.readPT_two_empty h _
  case pmul => rw [ruleOf, State.readPT_empty h, Except.error_bind]
  case peq => exact State.readPT_two_empty h _
  case pget => rw [ruleOf, State.readPT_empty h, Except.error_bind]

/-- R142: the first check of every instruction is that of its sources; STAT has none. -/
theorem exec_of_empty_source {i : Instr} {s : State}
    (h : (∃ j ∈ i.sourcesF, s.f[j] = .empty) ∨ (∃ j ∈ i.sourcesPT, s.pt[j] = .empty)) :
    exec i s = .next (s.failed .emptyRegister) := by
  have hi : i ≠ .stat := by
    rintro rfl
    simp [Instr.sourcesF, Instr.sourcesPT] at h
  rw [exec_eq_commit i s hi, ruleOf_of_empty_source h, State.commit_failed]

/-- Settles O44: the decoder comes before the sources, the sources before the checks, and the checks in their order. -/
theorem checksComeInTheirOrder : Obligations.ChecksComeInTheirOrder := by
  refine ⟨fun _ _ => step_illegal, fun _ _ => exec_of_empty_source, fun s fd fa fb a b ha hb hp _ => ?_,
    fun s pd fa fb fc a b c ha hb hc _ => ?_, fun s pd fa fb fx fy a b x y ha hb hx hy hp _ => ?_,
    fun s pd pa pb p q hp hq hcurve => exec_padd_of_error pd hp hq (ecadd_of_different_curves hcurve)⟩
  · obtain ⟨-, -, hmismatch, -⟩ := fdivMultipliesByTheFermatInverse s fd fa fb
    exact hmismatch a b ha hb hp
  · obtain ⟨hloneX, -⟩ := exec_loneCoordinate (i := .pnewX pd fa fb fc) (fc := fc) s rfl
    obtain ⟨hloneY, -⟩ := exec_loneCoordinate (i := .pnewY pd fa fb fc) (fc := fc) s rfl
    have hfull : s.f[fa] ≠ .empty ∧ s.f[fb] ≠ .empty ∧ s.f[fc] ≠ .empty := by simp [ha, hb, hc]
    obtain ⟨hna, hnb, hnc⟩ := hfull
    exact ⟨hloneX hna hnb hnc, hloneY hna hnb hnc⟩
  · obtain ⟨-, -, hmismatch⟩ := exec_pnewXY_checks pd ha hb hx hy
    exact hmismatch hp

end Sys2Proof.Machine

/-! What a command reads: the register files and the data inputs its instruction uses, nothing else
(spec/30_encoding.md R52, spec/20_memory.md section 2). -/
namespace Sys2Proof.Machine

theorem State.readF_congr {s t : State} (hf : s.f = t.f) (r : FReg) : s.readF r = t.readF r := by
  rw [readF, readF, hf]

theorem State.readPT_congr {s t : State} (hpt : s.pt = t.pt) (r : PReg) : s.readPT r = t.readPT r := by
  rw [readPT, readPT, hpt]

/-- R52: a rule is fixed by the register files and the data inputs the instruction uses. -/
theorem ruleOf_congr {i : Instr} {s t : State} (hf : s.f = t.f) (hpt : s.pt = t.pt)
    (h0 : 1 ≤ i.usesDin → s.din0 = t.din0) (h1 : 2 ≤ i.usesDin → s.din1 = t.din1) : ruleOf i s = ruleOf i t := by
  cases i
  case fnew => rw [ruleOf, ruleOf, h0 one_le_two, h1 (Nat.le_refl 2)]
  case fpow => rw [ruleOf, ruleOf, State.readF_congr hf, h0 (Nat.le_refl 1)]
  case pmul => rw [ruleOf, ruleOf, State.readPT_congr hpt, h0 (Nat.le_refl 1)]
  all_goals simp only [ruleOf, binaryField, loneCoordinate, State.readF_congr hf, State.readPT_congr hpt]

/-- Settles O46: neither the rule nor its end looks at another input. -/
theorem unusedDataInputsAreIgnored : Obligations.UnusedDataInputsAreIgnored := by
  intro i s w d0 d1 e0 e1 h0 h1
  by_cases hi : i = .stat
  · subst hi
    rfl
  · have hrule : ruleOf i { s with port := .busy ⟨w, d0, d1⟩ } = ruleOf i { s with port := .busy ⟨w, e0, e1⟩ } :=
      ruleOf_congr rfl rfl h0 h1
    rw [exec_eq_commit i _ hi, exec_eq_commit i _ hi, hrule, State.commit_withPort s (.busy ⟨w, d0, d1⟩),
      State.commit_withPort s (.busy ⟨w, e0, e1⟩)]

/-- R52: an instruction that uses a data input writes a register. -/
theorem usesDin_eq_zero_of_no_dest {i : Instr} (hf : i.destF = none) (hpt : i.destPT = none) : i.usesDin = 0 := by
  cases i
  case fnew => cases hf
  case fpow => cases hf
  case pmul => cases hpt
  all_goals rfl

/-- R144: ending once more with the same rule changes nothing. -/
theorem State.commit_commit (s : State) (x : Except Status Effect) : (s.commit x).commit x = s.commit x := by
  cases x with
  | error st => rfl
  | ok e =>
    obtain ⟨w, flag, dout⟩ := e
    cases w with
    | none => rfl
    | toF rd v => simp [finish, respond, write]
    | toPT rd v => simp [finish, respond, write]

/-- Settles O47: a read writes no register, so in the state it leaves its rule ends as before. -/
theorem readsHaveNoSideEffect : Obligations.ReadsHaveNoSideEffect := by
  intro i s hdestF hdestPT _
  obtain ⟨t, r, hexec, hport, hframeF, hframePT, hstat, -⟩ := onlyTheDestinationIsWritten i s
  have hf : t.f = s.f := Vector.ext fun j hj => hframeF ⟨j, hj⟩ (by simp [hdestF])
  have hpt : t.pt = s.pt := Vector.ext fun j hj => hframePT ⟨j, hj⟩ (by simp [hdestPT])
  refine ⟨t, r, hexec, hport, hf, hpt, hstat, ?_⟩
  by_cases hi : i = .stat
  · subst hi
    obtain rfl := Host.Outcome.next.inj hexec
    rfl
  · have hdin := usesDin_eq_zero_of_no_dest hdestF hdestPT
    have hrule : ruleOf i t = ruleOf i s := ruleOf_congr hf hpt (by simp [hdin]) (by simp [hdin])
    rw [exec_eq_commit i s hi] at hexec
    rw [exec_eq_commit i t hi, hrule, ← Host.Outcome.next.inj hexec, State.commit_commit]

end Sys2Proof.Machine

/-! The steps of the port (spec/30_encoding.md section 7, spec/70_reset_and_hazards.md R160 to R163). -/
namespace Sys2Proof.Machine

/-- R160, R161: a reset edge. -/
theorem step_of_rst {s : State} (hrst : s.edge.rst = true) : step s = .next s.advance.applyReset := by
  simp [step, hrst]

/-- R63: an edge of an idle block. -/
theorem step_of_idle {s : State} (hport : s.port = .idle) (hrst : s.edge.rst = false) :
    step s = .next (s.advance.offerCommand s.edge) := by
  simp [step, hrst, hport]

/-- R63: an edge of a block that presents a response. -/
theorem step_of_done {s : State} {r : Response} (hport : s.port = .done r) (hrst : s.edge.rst = false) :
    step s = .next (s.advance.offerResponse s.edge r) := by
  simp [step, hrst, hport]

/-- R146, R165: a command in flight is answered. -/
theorem step_responds {s : State} {c : Command} (hport : s.port = .busy c) (hrst : s.edge.rst = false) :
    ∃ t r, step s = .next t ∧ t.port = .done r := by
  cases hdec : decode c.word with
  | none => exact ⟨_, _, step_illegal hport hrst hdec, rfl⟩
  | some i =>
    rw [step_of_decode_some hport hrst hdec]
    exact exec_responds i s.advance

/-- R163: a response not taken is held. -/
theorem step_of_not_taken {s : State} {r : Response} (hport : s.port = .done r) (hrst : s.edge.rst = false)
    (hready : s.edge.rspReady = false) : step s = .next s.advance := by
  rw [step_of_done hport hrst, State.offerResponse, hready, if_neg Bool.false_ne_true]

/-- Settles O55, phase by phase. -/
theorem everyStepGivesANextState : Obligations.EveryStepGivesANextState := by
  intro s
  rcases step_cases s with ⟨-, h⟩ | ⟨-, -, h⟩ | ⟨c, i, hrst, hport, -, -⟩ | ⟨c, -, -, -, h⟩ | ⟨r, -, -, h⟩
  · exact ⟨_, h⟩
  · exact ⟨_, h⟩
  · obtain ⟨t, r, h, -⟩ := step_responds hport hrst
    exact ⟨t, h⟩
  · exact ⟨_, h⟩
  · exact ⟨_, h⟩

/-- R160, R163: `cmd_ready`. -/
theorem State.cmdReady_iff (s : State) : s.cmdReady = true ↔ s.port = .idle ∧ s.edge.rst = false := by
  simp [cmdReady]

/-- R160, R163: the response outputs. -/
theorem State.rspOut_eq_some_iff (s : State) (r : Response) :
    s.rspOut = some r ↔ s.port = .done r ∧ s.edge.rst = false := by
  unfold rspOut
  cases s.port <;> simp [and_comm]

/-- R160, R163: `rsp_valid`. -/
theorem State.rspValid_iff (s : State) : s.rspValid = true ↔ ∃ r, s.port = .done r ∧ s.edge.rst = false := by
  simp only [rspValid, Option.isSome_iff_exists, rspOut_eq_some_iff]

/-- Settles O51: reset comes before every phase; without it a command is answered and an answer held. -/
theorem resetAbandonsEverything : Obligations.ResetAbandonsEverything := by
  refine ⟨fun s hrst => ⟨?_, ?_, s.advance.applyReset, step_of_rst hrst, State.reset_f_getElem,
    State.reset_pt_getElem, rfl, rfl, rfl, rfl, fun h => ?_⟩, fun _ _ => step_responds, fun s r hport hrst hready => ?_⟩
  · simp [← Bool.not_eq_true, State.cmdReady_iff, hrst]
  · simp [← Bool.not_eq_true, State.rspValid_iff, hrst]
  · exact (State.cmdReady_iff _).mpr ⟨rfl, h⟩
  · exact ⟨_, step_of_not_taken hport hrst hready, hport⟩

/-- Settles O52, phase by phase. -/
theorem oneCommandAtATime : Obligations.OneCommandAtATime := by
  refine ⟨fun s h => ?_, fun s hready hvalid => ?_, fun s hready hvalid => ?_,
    fun s c hport => ⟨?_, ?_, step_responds hport⟩,
    fun s r hport => ⟨?_, fun hrst => ⟨?_, step_of_not_taken hport hrst, fun hready => ?_⟩⟩⟩
  · obtain ⟨hready, hvalid⟩ := h
    obtain ⟨hidle, -⟩ := s.cmdReady_iff.mp hready
    obtain ⟨r, hdone, -⟩ := s.rspValid_iff.mp hvalid
    cases hidle.symm.trans hdone
  · obtain ⟨hidle, hrst⟩ := s.cmdReady_iff.mp hready
    rw [step_of_idle hidle hrst, State.offerCommand, if_pos hvalid]
  · obtain ⟨hidle, hrst⟩ := s.cmdReady_iff.mp hready
    rw [step_of_idle hidle hrst, State.offerCommand, hvalid, if_neg Bool.false_ne_true]
  · simp [← Bool.not_eq_true, State.cmdReady_iff, hport]
  · simp [← Bool.not_eq_true, State.rspValid_iff, hport]
  · simp [← Bool.not_eq_true, State.cmdReady_iff, hport]
  · exact (s.rspOut_eq_some_iff r).mpr ⟨hport, hrst⟩
  · rw [step_of_done hport hrst, State.offerResponse, if_pos hready, State.advance_collected]

end Sys2Proof.Machine

/-! The block as a function of the architectural state and the command (spec/00_scope.md R8). -/
namespace Sys2Proof.Machine

/-- R8: the architectural state and the response that `commit` leaves do not depend on the rest of the state. -/
theorem commit_of_arch (a : Arch) (x : Except Status Effect) :
    ∃ a' r, ∀ p es rs, State.commit ⟨a, p, es, rs⟩ x = ⟨a', .done r, es, rs⟩ := by
  cases x with
  | error st => exact ⟨{ a with status := st }, ⟨st, false, Dout.zero⟩, fun _ _ _ => rfl⟩
  | ok e =>
    obtain ⟨w, flag, dout⟩ := e
    cases w with
    | none => exact ⟨{ a with status := .ok }, ⟨.ok, flag, dout⟩, fun _ _ _ => rfl⟩
    | toF rd v => exact ⟨⟨a.f.set rd (.full v), a.pt, .ok⟩, ⟨.ok, flag, dout⟩, fun _ _ _ => rfl⟩
    | toPT rd v => exact ⟨⟨a.f, a.pt.set rd (.full v), .ok⟩, ⟨.ok, flag, dout⟩, fun _ _ _ => rfl⟩

/-- R8: the architectural state and the response after an instruction do not depend on the host's side. -/
theorem exec_of_arch (i : Instr) (a : Arch) (c : Command) :
    ∃ a' r, ∀ es rs, exec i ⟨a, .busy c, es, rs⟩ = .next ⟨a', .done r, es, rs⟩ := by
  by_cases hi : i = .stat
  · subst hi
    exact ⟨a, ⟨.ok, false, statDout a.status⟩, fun _ _ => rfl⟩
  · obtain ⟨a', r, h⟩ := commit_of_arch a (ruleOf i ⟨a, .busy c, [], []⟩)
    refine ⟨a', r, fun es rs => ?_⟩
    have hrule : ruleOf i ⟨a, .busy c, es, rs⟩ = ruleOf i ⟨a, .busy c, [], []⟩ :=
      ruleOf_congr rfl rfl (fun _ => rfl) (fun _ => rfl)
    rw [exec_eq_commit i _ hi, hrule, h]

/-- R8: the architectural state and the response after a command do not depend on the host's side. -/
theorem step_busy_of_arch (a : Arch) (c : Command) :
    ∃ a' r, ∀ es rs, (State.mk a (.busy c) es rs).edge.rst = false →
      step ⟨a, .busy c, es, rs⟩ = .next ⟨a', .done r, es.tail, rs⟩ := by
  cases hdec : decode c.word with
  | none =>
    exact ⟨{ a with status := .illegalCommand }, ⟨.illegalCommand, false, Dout.zero⟩,
      fun _ _ hrst => step_illegal rfl hrst hdec⟩
  | some i =>
    obtain ⟨a', r, h⟩ := exec_of_arch i a c
    exact ⟨a', r, fun es rs hrst => (step_of_decode_some rfl hrst hdec).trans (h es.tail rs)⟩

/-- R8: what a command in flight leaves, whatever the host does, is what `answer` says. -/
theorem answer_spec (a : Arch) (c : Command) :
    ∃ a' r, answer a c = some (a', r) ∧ ∀ es rs, (State.mk a (.busy c) es rs).edge.rst = false →
      step ⟨a, .busy c, es, rs⟩ = .next ⟨a', .done r, es.tail, rs⟩ := by
  obtain ⟨a', r, h⟩ := step_busy_of_arch a c
  exact ⟨a', r, by rw [answer, h [] [] rfl], h⟩

/-- Settles O53: `answer` reads the step off with nothing else in the state. -/
theorem commandIsAFunctionOfStateAndCommand : Obligations.CommandIsAFunctionOfStateAndCommand := by
  intro s c hport hrst
  obtain ⟨a, p, es, rs⟩ := s
  obtain rfl : p = .busy c := hport
  obtain ⟨a', r, hanswer, hstep⟩ := answer_spec a c
  exact ⟨a', r, hanswer, hstep es rs hrst⟩

end Sys2Proof.Machine

/-! Runs of the port under a host's plan (spec/70_reset_and_hazards.md R163, R166, section 5). -/
namespace Sys2Proof.Machine

/-- The edges take the block from `s` to `t`, whatever edges come after them. -/
def Drives (es : List HostEdge) (s t : State) : Prop :=
  ∀ rest, steps es.length { s with inputs := es ++ rest } = some { t with inputs := rest }

theorem Drives.nil (s : State) : Drives [] s s := fun _ => rfl

/-- One edge, then the others. -/
theorem Drives.cons {e : HostEdge} {es : List HostEdge} {s t u : State}
    (hstep : ∀ rest, step { s with inputs := e :: rest } = .next { t with inputs := rest }) (h : Drives es t u) :
    Drives (e :: es) s u := by
  intro rest
  rw [List.length_cons, List.cons_append, steps, hstep]
  exact h rest


/-- R154, R163: a host that does nothing leaves an idle block idle and a response presented. -/
theorem step_quiet {a : Arch} {p : Port} {rs : List Response} (hp : ∀ c, p ≠ .busy c) (rest : List HostEdge) :
    step ⟨a, p, HostEdge.quiet :: rest, rs⟩ = .next ⟨a, p, rest, rs⟩ := by
  cases p with
  | idle => rfl
  | done r => rfl
  | busy c => exact absurd rfl (hp c)

/-- R166: any number of edges at which the host does nothing. -/
theorem Drives.quiet {a : Arch} {p : Port} {rs : List Response} (hp : ∀ c, p ≠ .busy c) {es : List HostEdge}
    {t : State} (h : Drives es ⟨a, p, [], rs⟩ t) (n : Nat) :
    Drives (List.replicate n HostEdge.quiet ++ es) ⟨a, p, [], rs⟩ t := by
  induction n with
  | zero => exact h
  | succ n ih => exact .cons (step_quiet hp) ih

/-- R166: the edges of one command, from idle to idle, with its answer collected. -/
theorem Turn.drives {x : Turn} {a a' : Arch} {r : Response} {rs : List Response} {es : List HostEdge} {t : State}
    (hanswer : answer a x.command = some (a', r)) (h : Drives es ⟨a', .idle, [], rs ++ [r]⟩ t) :
    Drives (x.edges ++ es) ⟨a, .idle, [], rs⟩ t := by
  obtain ⟨b, q, hb, hstep⟩ := answer_spec a x.command
  obtain ⟨rfl, rfl⟩ : b = a' ∧ q = r := by simpa using hb.symm.trans hanswer
  have htake : Drives (takeEdge :: es) ⟨b, .done q, [], rs⟩ t := .cons (fun _ => rfl) h
  have hwait := Drives.quiet (by simp) htake x.wait
  have hrun := Drives.cons (s := ⟨a, .busy x.command, [], rs⟩) (fun rest => hstep (HostEdge.quiet :: rest) rs rfl) hwait
  have hpresent := Drives.cons (s := ⟨a, .idle, [], rs⟩) (e := presentEdge x.command) (fun _ => rfl) hrun
  simpa [Turn.edges] using Drives.quiet (by simp) hpresent x.before

/-- The plan takes an idle block through the folded commands. -/
theorem plan_drives (plan : List Turn) (a : Arch) (rs : List Response) :
    ∃ a' qs, answers a (plan.map Turn.command) = some (a', qs) ∧ qs.length = plan.length ∧
      Drives (planEdges plan) ⟨a, .idle, [], rs⟩ ⟨a', .idle, [], rs ++ qs⟩ := by
  induction plan generalizing a rs with
  | nil => exact ⟨a, [], rfl, rfl, (List.append_nil rs).symm ▸ Drives.nil _⟩
  | cons x xs ih =>
    obtain ⟨b, r, hanswer, -⟩ := answer_spec a x.command
    obtain ⟨a', qs, hanswers, hlen, hdrives⟩ := ih b (rs ++ [r])
    refine ⟨a', r :: qs, ?_, congrArg Nat.succ hlen, Turn.drives hanswer ?_⟩
    · simp [answers, hanswer, hanswers]
    · simpa using hdrives

/-- Settles O54, by induction on the plan. -/
theorem answersComeInOrder : Obligations.AnswersComeInOrder := by
  intro plan s rest hport
  obtain ⟨a, p, es, rs⟩ := s
  obtain rfl : p = .idle := hport
  obtain ⟨a', qs, hanswers, hlen, hdrives⟩ := plan_drives plan a rs
  exact ⟨a', qs, hanswers, hlen, hdrives rest⟩

end Sys2Proof.Machine

/-! The invariants of spec/10_state.md R25, kept by every command. -/
namespace Sys2Proof.Machine

/-- R25 of what a write puts into a register. -/
def Write.Inv : Write → Prop
  | .none => True
  | .toF _ v => v.InField ∧ v.Fits
  | .toPT _ v => v.Lawful ∧ v.Fits

theorem FE.Fits.of_prime_eq {a b : FE} (h : a.Fits) (hp : a.prime = b.prime) : b.Fits := by
  rwa [FE.Fits, ← hp]

/-- R20: a value below the prime of an element that fits can be written with that prime. -/
theorem FE.Fits.toF_inv {a : FE} {fd : FReg} {v : Nat} (hfits : a.Fits) (hv : v < a.prime) :
    (Write.toF fd ⟨v, a.prime⟩).Inv :=
  ⟨hv, hfits⟩

/-- I-P1, I-P2: a lawful point fits `W` bits when its curve constants do. -/
theorem Point.Lawful.fits {p : Point} (h : p.Lawful) (ha : p.a.Fits) (hb : p.b.Fits) : p.Fits := by
  obtain ⟨a, b, c⟩ := p
  obtain ⟨-, -, hcoords⟩ := h
  refine ⟨ha, hb, ?_⟩
  cases c with
  | infinity => trivial
  | onCurve x y =>
    obtain ⟨-, -, -, hbx, hxy, -⟩ := hcoords
    have hx : x.Fits := hb.of_prime_eq hbx
    exact ⟨hx, hx.of_prime_eq hxy⟩

/-- R25: a point of the curve of a point that satisfies the invariants. -/
theorem Point.Lawful.toPT_inv {p r : Point} {pd : PReg} (hr : r.Lawful) (hp : p.Fits) (ha : r.a = p.a)
    (hb : r.b = p.b) : (Write.toPT pd r).Inv := by
  obtain ⟨hpa, hpb, -⟩ := hp
  exact ⟨hr, hr.fits (ha ▸ hpa) (hb ▸ hpb)⟩

theorem FE.InField.prime_pos {e : FE} (h : e.InField) : 0 < e.prime := Nat.zero_lt_of_lt h

theorem FE.InField.value_fits {e : FE} (h : e.InField) (hfits : e.Fits) : e.value < 2 ^ Config.W := h.trans hfits

/-- R50: the second data input fits the port; with no command in flight it reads 0. -/
theorem Port.Inv.din1_lt {s : State} (h : s.port.Inv) : s.din1 < 2 ^ Config.W := by
  unfold State.din1
  cases hp : s.port with
  | idle => exact Config.two_pow_W_pos
  | done r => exact Config.two_pow_W_pos
  | busy c =>
    rw [hp] at h
    obtain ⟨-, hdin1⟩ := h
    exact hdin1

/-- R25: an instruction that succeeds writes what satisfies the invariants. -/
theorem Gives.write_inv {s : State} {i : Instr} {e : Effect} (h : Gives s i e) (harch : s.toArch.Inv)
    (hport : s.port.Inv) : e.write.Inv := by
  obtain ⟨hfIn, hfFits, hptLawful, hptFits⟩ := harch
  cases h with
  | stat => trivial
  | fnew hlt => exact ⟨hlt, hport.din1_lt⟩
  | fadd ha _ _ => exact (hfFits _ _ ha).toF_inv (modadd_lt _ _ (hfIn _ _ ha).prime_pos)
  | fsub ha _ _ => exact (hfFits _ _ ha).toF_inv (modsub_lt _ (hfIn _ _ ha))
  | fmul ha _ _ => exact (hfFits _ _ ha).toF_inv (modmul_lt _ _ (hfIn _ _ ha).prime_pos)
  | fpow ha => exact (hfFits _ _ ha).toF_inv (modpow_lt _ _ (hfIn _ _ ha).prime_pos)
  | finv hb _ => exact (hfFits _ _ hb).toF_inv (modpow_lt _ _ (hfIn _ _ hb).prime_pos)
  | fdiv ha _ _ _ => exact (hfFits _ _ ha).toF_inv (modmul_lt _ _ (hfIn _ _ ha).prime_pos)
  | feq _ _ => trivial
  | fget _ => trivial
  | pnewN ha hb => exact ⟨⟨hfIn _ _ ha, hfIn _ _ hb, trivial⟩, hfFits _ _ ha, hfFits _ _ hb, trivial⟩
  | pnewXY ha hb hx hy hp hcurve =>
    obtain ⟨hab, hbx, hxy⟩ := (onePrime_iff ..).mp hp
    exact ⟨⟨hfIn _ _ ha, hfIn _ _ hb, hfIn _ _ hx, hfIn _ _ hy, hab, hbx, hxy, hcurve⟩,
      hfFits _ _ ha, hfFits _ _ hb, hfFits _ _ hx, hfFits _ _ hy⟩
  | padd hp hq hr =>
    obtain ⟨-, ha, hb⟩ := ecadd_eq_ok_curve hr
    exact (ecadd_lawful (hptLawful _ _ hp) (hptLawful _ _ hq) hr).toPT_inv (hptFits _ _ hp) ha hb
  | pmul hp hr =>
    obtain ⟨ha, hb⟩ := ecmul_eq_ok_curve hr
    exact (ecmul_lawful (hptLawful _ _ hp) hr).toPT_inv (hptFits _ _ hp) ha hb
  | peq _ _ => trivial
  | pget _ => trivial

/-- R53: all-zero data words fit. -/
theorem Dout.zero_fits (k : Fin 8) : Dout.zero[k] < 2 ^ Config.W := by
  rw [Dout.zero_getElem]
  exact Config.two_pow_W_pos

/-- R53, R79: the data words of FGET fit. -/
theorem fgetDout_fits {a : FE} (ha : a.InField) (hfits : a.Fits) (k : Fin 8) : (fgetDout a)[k] < 2 ^ Config.W := by
  fin_cases k
  · exact ha.value_fits hfits
  · exact hfits
  all_goals exact Config.two_pow_W_pos

/-- R53, R106: the data words of PGET fit. -/
theorem pgetDout_fits {p : Point} (hp : p.Lawful) (hfits : p.Fits) (k : Fin 8) : (pgetDout p)[k] < 2 ^ Config.W := by
  obtain ⟨a, b, c⟩ := p
  obtain ⟨ha, hb, hc⟩ := hp
  obtain ⟨hfa, hfb, hfc⟩ := hfits
  cases c with
  | infinity =>
    fin_cases k
    · exact ha.value_fits hfa
    · exact hfa
    · exact hb.value_fits hfb
    · exact hfb
    all_goals exact Config.two_pow_W_pos
  | onCurve x y =>
    obtain ⟨hx, hy, -⟩ := hc
    obtain ⟨hfx, hfy⟩ := hfc
    fin_cases k
    · exact ha.value_fits hfa
    · exact hfa
    · exact hb.value_fits hfb
    · exact hfb
    · exact hx.value_fits hfx
    · exact hfx
    · exact hy.value_fits hfy
    · exact hfy

/-- R53, R130: the data words of STAT fit. -/
theorem statDout_fits (st : Status) (k : Fin 8) : (statDout st)[k] < 2 ^ Config.W := by
  fin_cases k
  · exact Nat.mod_lt _ Config.two_pow_W_pos
  all_goals exact Config.two_pow_W_pos

/-- R53: an instruction that succeeds shows data words that fit. -/
theorem Gives.dout_fits {s : State} {i : Instr} {e : Effect} (h : Gives s i e) (harch : s.toArch.Inv) (k : Fin 8) :
    e.dout[k] < 2 ^ Config.W := by
  obtain ⟨hfIn, hfFits, hptLawful, hptFits⟩ := harch
  cases h
  case fget ha => exact fgetDout_fits (hfIn _ _ ha) (hfFits _ _ ha) k
  case pget hp => exact pgetDout_fits (hptLawful _ _ hp) (hptFits _ _ hp) k
  all_goals exact Dout.zero_fits k

/-- R20, R23: what a full field-element register holds after a write. -/
theorem State.write_f_full {s : State} {w : Write} {j : FReg} {e : FE} (h : (s.write w).f[j] = .full e) :
    w = .toF j e ∨ s.f[j] = .full e := by
  by_cases hdest : w.destF = some j
  · cases w with
    | none => cases hdest
    | toPT rd v => cases hdest
    | toF rd v =>
      obtain rfl : rd = j := Option.some.inj hdest
      have hv : Slot.full v = Slot.full e := (Vector.getElem_set_self rd.isLt).symm.trans h
      exact .inl (Slot.full.inj hv ▸ rfl)
  · exact .inr (s.write_f_of_ne hdest ▸ h)

/-- R21, R23: what a full point register holds after a write. -/
theorem State.write_pt_full {s : State} {w : Write} {j : PReg} {p : Point} (h : (s.write w).pt[j] = .full p) :
    w = .toPT j p ∨ s.pt[j] = .full p := by
  by_cases hdest : w.destPT = some j
  · cases w with
    | none => cases hdest
    | toF rd v => cases hdest
    | toPT rd v =>
      obtain rfl : rd = j := Option.some.inj hdest
      have hv : Slot.full v = Slot.full p := (Vector.getElem_set_self rd.isLt).symm.trans h
      exact .inl (Slot.full.inj hv ▸ rfl)
  · exact .inr (s.write_pt_of_ne hdest ▸ h)

/-- R25 speaks of the register files alone. -/
theorem Arch.Inv.of_files {a b : Arch} (h : a.Inv) (hf : b.f = a.f) (hpt : b.pt = a.pt) : b.Inv := by
  obtain ⟨hfIn, hfFits, hptLawful, hptFits⟩ := h
  rw [← hf] at hfIn hfFits
  rw [← hpt] at hptLawful hptFits
  exact ⟨hfIn, hfFits, hptLawful, hptFits⟩

/-- R25: a write of what satisfies the invariants keeps them. -/
theorem State.write_arch_inv {s : State} {w : Write} (h : s.toArch.Inv) (hw : w.Inv) : (s.write w).toArch.Inv := by
  obtain ⟨hfIn, hfFits, hptLawful, hptFits⟩ := h
  have hf : ∀ (j : FReg) (e : FE), (s.write w).f[j] = .full e → e.InField ∧ e.Fits := by
    intro j e hj
    rcases State.write_f_full hj with rfl | hold
    · exact hw
    · exact ⟨hfIn j e hold, hfFits j e hold⟩
  have hpt : ∀ (j : PReg) (p : Point), (s.write w).pt[j] = .full p → p.Lawful ∧ p.Fits := by
    intro j p hj
    rcases State.write_pt_full hj with rfl | hold
    · exact hw
    · exact ⟨hptLawful j p hold, hptFits j p hold⟩
  exact ⟨fun j e hj => (hf j e hj).1, fun j e hj => (hf j e hj).2, fun j p hj => (hpt j p hj).1,
    fun j p hj => (hpt j p hj).2⟩

/-- R30: the reset state's registers are empty. -/
theorem Arch.reset_inv : Arch.reset.Inv where
  fInField j e h := by cases (State.reset_f_getElem j).symm.trans h
  fFits j e h := by cases (State.reset_f_getElem j).symm.trans h
  ptLawful j p h := by cases (State.reset_pt_getElem j).symm.trans h
  ptFits j p h := by cases (State.reset_pt_getElem j).symm.trans h

/-- Settles O56: nothing is in the registers, and nothing on the port. -/
theorem resetSatisfiesTheInvariants : Obligations.ResetSatisfiesTheInvariants where
  arch := Arch.reset_inv
  port := trivial
  inputs := by simp
  collected := by simp

/-- The edges and the responses left after an edge still fit the port. -/
theorem State.Inv.advance {s : State} (h : s.Inv) : s.advance.Inv :=
  { h with inputs := fun e he => h.inputs e (List.mem_of_mem_tail he) }

/-- R50: the command at the coming edge fits the port. -/
theorem State.Inv.edge_command {s : State} (h : s.Inv) : s.edge.command.WellFormed := by
  obtain ⟨a, p, es, rs⟩ := s
  cases es with
  | nil => exact ⟨Config.two_pow_W_pos, Config.two_pow_W_pos⟩
  | cons e es => exact h.inputs e List.mem_cons_self

/-- R53: a status raised comes with zeros. -/
theorem failure_inv (st : Status) : (Response.mk st false Dout.zero).Inv := ⟨Dout.zero_fits, fun _ => ⟨rfl, rfl⟩⟩

/-- R53: a response `OK` fits when its data words do. -/
theorem success_inv {flag : Bool} {dout : Dout} (h : ∀ k : Fin 8, dout[k] < 2 ^ Config.W) :
    (Response.mk .ok flag dout).Inv :=
  ⟨h, fun hne => absurd rfl hne⟩

theorem State.Inv.raise {s : State} (h : s.Inv) (st : Status) : (s.raise st).Inv :=
  ⟨h.arch.of_files rfl rfl, failure_inv st, h.inputs, h.collected⟩

/-- R25: an instruction that answers keeps the invariants. -/
theorem State.Inv.exec {s t : State} {i : Instr} (h : s.Inv) (hexec : exec i s = .next t) : t.Inv := by
  rcases exec_cases i s with ⟨-, hnext⟩ | ⟨-, st, -, hnext⟩ | ⟨-, e, he, hnext⟩ <;>
    obtain rfl := Host.Outcome.next.inj (hexec.symm.trans hnext)
  · exact ⟨h.arch.of_files rfl rfl, success_inv (statDout_fits s.status), h.inputs, h.collected⟩
  · exact h.raise st
  · have harch := State.write_arch_inv h.arch (he.write_inv h.arch h.port)
    exact ⟨harch.of_files rfl rfl, success_inv (he.dout_fits h.arch), (s.write_inputs _).symm ▸ h.inputs,
      (s.write_collected _).symm ▸ h.collected⟩

/-- R63: taking a command, or not, keeps the invariants. -/
theorem State.Inv.offerCommand {s : State} {e : HostEdge} (h : s.Inv) (he : e.command.WellFormed) :
    (s.offerCommand e).Inv := by
  unfold State.offerCommand
  split
  · exact ⟨h.arch, he, h.inputs, h.collected⟩
  · exact h

/-- R63: giving a response, or not, keeps the invariants. -/
theorem State.Inv.offerResponse {s : State} {r : Response} (h : s.Inv) (hr : r.Inv) (e : HostEdge) :
    (s.offerResponse e r).Inv := by
  unfold State.offerResponse
  split
  · refine ⟨h.arch, trivial, h.inputs, fun q hq => ?_⟩
    rcases List.mem_append.mp hq with hold | hnew
    · exact h.collected q hold
    · exact List.mem_singleton.mp hnew ▸ hr
  · exact h

/-- Settles O57, phase by phase; of a command, by what its rule can end in. -/
theorem stepKeepsTheInvariants : Obligations.StepKeepsTheInvariants := by
  intro s t h hstep
  have hadv := h.advance
  rcases step_cases s with ⟨-, hnext⟩ | ⟨-, -, hnext⟩ | ⟨c, i, -, -, -, hexec⟩ | ⟨c, -, -, -, hnext⟩ |
    ⟨r, -, hport, hnext⟩
  · obtain rfl := Host.Outcome.next.inj (hstep.symm.trans hnext)
    exact ⟨Arch.reset_inv, trivial, hadv.inputs, hadv.collected⟩
  · obtain rfl := Host.Outcome.next.inj (hstep.symm.trans hnext)
    exact hadv.offerCommand h.edge_command
  · exact hadv.exec (hexec.symm.trans hstep)
  · obtain rfl := Host.Outcome.next.inj (hstep.symm.trans hnext)
    exact hadv.raise .illegalCommand
  · obtain rfl := Host.Outcome.next.inj (hstep.symm.trans hnext)
    exact hadv.offerResponse (hport ▸ h.port : (Port.done r).Inv) s.edge

end Sys2Proof.Machine
